-- ==== Sys2Proof/Word.lean ====
section
/-! DEFINITION. Word: the byte and the names of the small numbers the J24 uses (spec 00, section 7). -/

namespace Sys2Proof

/-- A byte of memory or of a management frame. -/
abbrev Byte := BitVec 8

/-- A source number, 0 to 7 (R25). -/
abbrev Source := Fin 8

/-- The tag a source gives a request, 0 to 15 (R25). -/
abbrev ReqTag := Fin 16

/-- A group number, 0 to 15; 0 names no group (R25, R42). -/
abbrev GroupNo := Fin 16

/-- An M-port tag, 0 to 15 (R113). -/
abbrev MTag := Fin 16

/-- A group slot number, 0 to 3 (R43). -/
abbrev SlotNo := Fin 4

end Sys2Proof
end

