-- ==== Sys2Proof/Config.lean ====
section
/-! DEFINITION. Config: the fixed sizes and times of the part (spec 00 section 7 and the chapters named). None of
them is a policy value. The J24 leaves no value to an implementation, so no free value stands here (log 35). -/

namespace Sys2Proof.Config

/-- Entries of the intake queue (R26). -/
def intakeDepth : Nat := 32
/-- Entries of the in-flight table (R27). -/
def inflightDepth : Nat := 32
/-- Entries of the hold list (R77). -/
def holdDepth : Nat := 8
/-- Entries of the claim table (R50). -/
def claimDepth : Nat := 256
/-- Records of the append window (R12). -/
def windowDepth : Nat := 8
/-- Ring slots a BEFORE allocation leaves free, one closing record per group slot (R11). -/
def reserve : Nat := 4
/-- Entries of the notice queue (R161). -/
def noticeDepth : Nat := 16
/-- Tags that ROLLBACK and TRAFFIC may hold together (R114). -/
def sharedTags : Nat := 14
/-- OUTSTANDING tags ROLLBACK may have (R114). -/
def rollbackTags : Nat := 2
/-- The M-port response limit, 4 ms in µs (R117). -/
def responseLimit : Nat := 4000
/-- The wait before an anchor retry, 1 ms in µs (R23). -/
def anchorRetryDelay : Nat := 1000
/-- One past the highest byte address of the 36-bit space (spec 00 section 7). -/
def addressEnd : Nat := 2 ^ 36
/-- The largest value of a 32-bit counter (R166). -/
def counterMax : Nat := 2 ^ 32 - 1
/-- Bytes of a ring slot and of a line (spec 00 section 7). -/
def ringSlotBytes : Nat := 32
/-- Bytes of a line (spec 00 section 7). -/
def lineBytes : Nat := 64
/-- The anchor's signature (R19). -/
def anchorSignature : Nat := 0x4A414E43
/-- The part code and the revision GET_IDENT returns (R158). -/
def partCode : Nat := 0x2418
/-- The revision GET_IDENT returns (R158). -/
def revision : Nat := 1
/-- Bytes a command frame stores (R148). -/
def frameBytes : Nat := 35

end Sys2Proof.Config
end

