-- ==== Sys2Proof/Syntax.lean ====
section
/-! DEFINITION. Syntax: the commands of the J24, one constructor of `Instr` for each row of spec/opcode_table.json,
with the operands the rules give each step. The table gives no row any bits. -/

namespace Sys2Proof

/-- What a MARK asks for; `other` is a mark kind that is neither COMMIT nor ABANDON, which is malformed (R25, R29). -/
inductive MarkKind where
  | commit
  | abandon
  | other
  deriving DecidableEq, Repr

/-- The fields of a request beyond source and tag (R25). A WRITE's line is its line address divided by 64, so a line
address is aligned by its type; the data are the 64 bytes of the line in address order. -/
inductive ReqBody where
  | read (addr : BitVec 36) (len : Nat)
  | write (line : BitVec 30) (mask : BitVec 64) (data : List Byte) (group : GroupNo)
  | mark (group : GroupNo) (kind : MarkKind)
  deriving DecidableEq, Repr

/-- A request of the host request lane (R25). -/
structure Request where
  source : Source
  tag : ReqTag
  body : ReqBody
  deriving DecidableEq, Repr

/-- What the memory controller did with an M-port request (R110). DONE: a WRITE's selected bytes are durable, a READ
returns its bytes; `raced` gives the bytes a READ returns where a WRITE was changing the byte meanwhile (log 6).
ERROR: `landed` says which of a WRITE's selected bytes did change (log 5). -/
inductive MemAnswer where
  | done (raced : List Byte)
  | error (landed : BitVec 96)
  deriving DecidableEq, Repr

/-- The parameters of SET_REGION as the frame carries them (R169, spec 12.3). -/
structure RegionParams where
  index : Nat
  base : Nat
  size : Nat
  cls : Nat
  policy : Nat
  deriving DecidableEq, Repr

/-- The parameters of SET_POLICY as the frame carries them (R169, spec 12.3). -/
structure PolicyParams where
  holdPolicy : Nat
  holdLimit : Nat
  idleLimit : Nat
  idleAction : Nat
  lowWater : Nat
  resumePolicy : Nat
  resumeDelay : Nat
  polarity : Nat
  deriving DecidableEq, Repr

/-- The steps of the part, in the order of spec/opcode_table.json. -/
inductive Instr where
  /-- HOST_REQUEST (R26). -/
  | hostRequest (r : Request)
  /-- ADMIT_WRITE (R60). -/
  | admitWrite
  /-- ADMIT_READ (R37). -/
  | admitRead
  /-- MARK_COMMIT (R91). -/
  | markCommit
  /-- MARK_ABANDON (R92). -/
  | markAbandon
  /-- RESPONSE_SENT (R30). -/
  | responseSent
  /-- HOLD_REEVALUATE (R82). -/
  | holdReevaluate
  /-- HOLD_TIMEOUT (R80) of the held request with this source and tag. -/
  | holdTimeout (source : Source) (tag : ReqTag)
  /-- IDLE_EXPIRY (R93) of a group slot. -/
  | idleExpiry (slot : SlotNo)
  /-- CLOSING_RECORD_ALLOCATE (R96). -/
  | closingRecordAllocate
  /-- MPORT_GRANT (R115). -/
  | mportGrant
  /-- RESPONSE_LIMIT_EXPIRY (R117) of an M-port tag. -/
  | responseLimitExpiry (tag : MTag)
  /-- LATE_RESPONSE (R118). -/
  | lateResponse (tag : MTag) (ans : MemAnswer)
  /-- PRE_RESET_RESPONSE (R120). -/
  | preResetResponse (tag : MTag) (ans : MemAnswer)
  /-- BI_READ_DONE (R65). -/
  | biReadDone (tag : MTag) (raced : List Byte)
  /-- BI_READ_FAILED (R17). -/
  | biReadFailed (tag : MTag)
  /-- RECORD_WRITE_DONE (R14). -/
  | recordWriteDone (tag : MTag)
  /-- RECORD_WRITE_FAILED (R18). -/
  | recordWriteFailed (tag : MTag) (landed : BitVec 96)
  /-- RECORD_RETRY_FAILED (R18). -/
  | recordRetryFailed (tag : MTag) (landed : BitVec 96)
  /-- DATA_WRITE_DONE (R68). -/
  | dataWriteDone (tag : MTag)
  /-- DATA_WRITE_FAILED (R72). -/
  | dataWriteFailed (tag : MTag) (landed : BitVec 96)
  /-- PASS_READ_ANSWERED (R37). -/
  | passReadAnswered (tag : MTag) (ans : MemAnswer)
  /-- PASS_WRITE_ANSWERED (R38). -/
  | passWriteAnswered (tag : MTag) (ans : MemAnswer)
  /-- ANCHOR_WRITE_DONE (R20). -/
  | anchorWriteDone (tag : MTag)
  /-- ANCHOR_WRITE_FAILED (R23). -/
  | anchorWriteFailed (tag : MTag) (landed : BitVec 96)
  /-- ANCHOR_RETRY (R23). -/
  | anchorRetry
  /-- ROLLBACK_TAKE_SLOT (R99). -/
  | rollbackTakeSlot
  /-- WALK_READ_ANSWERED (R100). -/
  | walkReadAnswered (tag : MTag) (ans : MemAnswer)
  /-- RESTORE_ANSWERED (R101). -/
  | restoreAnswered (tag : MTag) (ans : MemAnswer)
  /-- PFW_ASSERT (R123). -/
  | pfwAssert
  /-- PFW_DEASSERT (R130). -/
  | pfwDeassert
  /-- DRAIN_END (R127). -/
  | drainEnd
  /-- DRAIN_DONE (R128). -/
  | drainDone (tag : MTag)
  /-- RESUME_DELAY_EXPIRY (R130). -/
  | resumeDelayExpiry
  /-- WARM_RESET (R134). -/
  | warmReset
  /-- POWER_ON_RESET (R134), with the straps ADDR1:0 and the level of the PFW pin, and the bytes of writes still
  issued that reach memory (entry n for M-port tag n, log 9). -/
  | powerOnReset (straps : Fin 4) (pfwHigh : Bool) (landed : List (BitVec 96))
  /-- ANCHOR_READ_ANSWERED (R136). -/
  | anchorReadAnswered (tag : MTag) (ans : MemAnswer)
  /-- FRESH_ANCHOR_ANSWERED (R137). -/
  | freshAnchorAnswered (tag : MTag) (ans : MemAnswer)
  /-- SCAN_READ_ANSWERED (R139). -/
  | scanReadAnswered (tag : MTag) (ans : MemAnswer)
  /-- RECOVERY_FINAL_ANCHOR (R142). -/
  | recoveryFinalAnchor
  /-- RECOVERY_DONE (R142). -/
  | recoveryDone (tag : MTag) (ans : MemAnswer)
  /-- STOP_ANCHOR_ANSWERED (R144). -/
  | stopAnchorAnswered (tag : MTag) (ans : MemAnswer)
  /-- COMMAND_FRAME (R149): a whole write transfer, with the 7-bit address and the bytes after the address byte. -/
  | commandFrame (address : BitVec 7) (bytes : List Byte)
  /-- GET_IDENT (R158). -/
  | getIdent
  /-- GET_STATE (R158). -/
  | getState
  /-- SET_LOG (R155). -/
  | setLog (base : Nat) (exponent : Nat)
  /-- SET_REGION (R32). -/
  | setRegion (p : RegionParams)
  /-- CLEAR_REGION (R32). -/
  | clearRegion (index : Nat)
  /-- GET_REGION (R32). -/
  | getRegion (index : Nat)
  /-- SET_POLICY (R154). -/
  | setPolicy (p : PolicyParams)
  /-- GET_POLICY (R154). -/
  | getPolicy
  /-- START with mode FRESH (R137). -/
  | startFresh
  /-- START with mode RECOVER (R138). -/
  | startRecover
  /-- STOP (R144). -/
  | stop
  /-- RESUME (R131). -/
  | resume
  /-- ABANDON_GROUP (R95) for a source and a group number. -/
  | abandonGroup (source : Nat) (group : Nat)
  /-- RELEASE_BROKEN (R107) for a source and a group number. -/
  | releaseBroken (source : Nat) (group : Nat)
  /-- GET_GROUP (R59). -/
  | getGroup (slot : Nat)
  /-- POP_NOTICE (R164). -/
  | popNotice
  /-- SET_NOTICE_MASK (R159). -/
  | setNoticeMask (mask : Nat)
  /-- GET_COUNTERS (R167). -/
  | getCounters
  /-- CLEAR_COUNTERS (R167). -/
  | clearCounters
  /-- SET_LOCK (R153). -/
  | setLock (level : Nat)
  /-- POWER_LOSS (R110): `landed` says which bytes of each write in progress reached memory, entry n for tag n. -/
  | powerLoss (landed : List (BitVec 96))
  /-- MARK_OTHER_KIND (R29). -/
  | markOtherKind
  deriving DecidableEq, Repr

end Sys2Proof
end

