-- ==== Sys2Proof/Decode.lean ====
section
/-! DEFINITION. Decode: spec/opcode_table.json gives no row any bits, so no word spells a command. The management
frames are decoded in Machine/Operands.lean by the rules R148 to R152 and R169. -/

namespace Sys2Proof

/-- The command a word spells by the table's bits: none, for the table gives no row bits. -/
def decodeTableWord (_nbits _w : Nat) : Option Instr := none

end Sys2Proof
end

