-- ==== Sys2Proof/Machine/State.lean ====
section
/-! DEFINITION. State: everything the spec gives the machine, as plain data, with the fault and refusal reasons and
the state after power-on reset. INVENTORY.md lists every field with its rule. -/

namespace Sys2Proof.Machine

/-- Why a step stops with a fault. -/
inductive Fault where
  /-- Raised by MPORT_GRANT when the granted request's span leaves the 36-bit address space (spec 00 section 7, R110);
  the manual gives no such access an effect. Safe: the model stops where the hardware might go on (log 24). -/
  | outsideMemory
  deriving DecidableEq, Repr

/-- Why a step is refused. -/
inductive Refusal where
  /-- Raised by an arm of exec whose row has no meaning yet. Safe: no claim about such a row holds of a next state. -/
  | notModelled (mnemonic : String)
  deriving DecidableEq, Repr

/-! ### Groups and claims (chapter 3) -/

/-- A group key: a source with a group number (R42). -/
structure Key where
  source : Source
  group : GroupNo
  deriving DecidableEq, Repr

/-- The key of a record or slot that names no group. -/
def Key.zero : Key := ⟨0, 0⟩

/-- Group slot states (R43). -/
inductive SlotState where
  | free
  | opened
  | committing
  | rollbackWait
  | rollingBack
  | broken
  deriving DecidableEq, Repr

/-- Closing causes (R43). -/
inductive Cause where
  | mark
  | idle
  | abandon
  | damaged
  | management
  | recovery
  deriving DecidableEq, Repr

/-- The closing waiter: the source and tag of one MARK (R43), with its mark kind (log 32). -/
structure Waiter where
  source : Source
  tag : ReqTag
  kind : MarkKind
  deriving DecidableEq, Repr

/-- A group slot (R43). The idle deadline is the remaining time in µs; it runs while the slot is OPEN and the bridge
RUNNING (R47, log 23). -/
structure GroupSlot where
  state : SlotState
  key : Key
  first : Nat
  newest : Nat
  records : Nat
  claims : Nat
  inflight : Nat
  idle : Option Nat
  damaged : Bool
  cause : Option Cause
  waiter : Option Waiter
  closing : Option Nat
  deriving DecidableEq, Repr

/-- A FREE slot: the last column of R43. -/
def GroupSlot.free : GroupSlot :=
  ⟨.free, Key.zero, 0, 0, 0, 0, 0, none, false, none, none, none⟩

/-- A claim entry in use (R50). -/
structure Claim where
  line : Nat
  owner : SlotNo
  mask : BitVec 64
  deriving DecidableEq, Repr

/-- What the walk does with the record at its position (R100 to R102, R105, R125). -/
inductive WalkPhase where
  /-- its READ is handed over and not answered -/
  | reading
  /-- its restore is handed over and not answered; the record's back distance -/
  | restoring (back : Nat)
  /-- stopped at a record boundary by a drain -/
  | suspended
  /-- the walk has failed and waits for its outstanding requests (R105) -/
  | ending
  deriving DecidableEq, Repr

/-- The read-ahead record of a walk (R101, R102, R125). -/
inductive ReadAhead where
  | none
  | pending
  | kept (bytes : List Byte)
  | keptError
  deriving DecidableEq, Repr

/-- The rollback engine while it walks (R99). -/
structure Walk where
  slot : SlotNo
  pos : Nat
  phase : WalkPhase
  ahead : ReadAhead
  deriving DecidableEq, Repr

/-- Group table, claim table, rollback queue and rollback engine (chapters 3 and 6). -/
structure GroupSide where
  slots : Vector GroupSlot 4
  claims : List Claim
  queue : List SlotNo
  walk : Option Walk
  deriving DecidableEq, Repr

/-! ### Requests, holds and responses (chapters 2, 4, 5) -/

/-- A request in the intake queue, with its duplicate mark (R26, R28). -/
structure Intake where
  req : Request
  dup : Bool
  deriving DecidableEq, Repr

/-- The room a request is short of: an in-flight entry or places of the append window (R27, R62); the room note of a held
request (R77, R83). -/
inductive Room where
  | inFlight
  | window
  deriving DecidableEq, Repr

/-- The admission unit's pause with the front request (R27, R62): the table that was short, and whether it has freed room
since, which ends the pause. -/
structure Pause where
  short : Room
  freed : Bool
  deriving DecidableEq, Repr

/-- A hold reason with what it waits on (R77). -/
inductive HoldReason where
  | line (line : Nat)
  | order (source : Source) (tag : ReqTag)
  | groupSlot
  | claimSpace
  | logSpace
  | rollbackRead (line : Nat)
  deriving DecidableEq, Repr

/-- An entry of the hold list (R77). The deadline is a moment of the µs timebase. -/
structure Hold where
  req : Request
  reason : HoldReason
  deadline : Nat
  room : Option Room
  marked : Bool
  deriving DecidableEq, Repr

/-- The record of a journaled write: its position, first byte and byte count (R64). -/
structure RecordSpan where
  pos : Nat
  first : Nat
  count : Nat
  deriving DecidableEq, Repr

/-- What an admitted request does (R27, R64). -/
inductive Work where
  | passRead (addr : Nat) (len : Nat)
  | passWrite (line : Nat) (mask : BitVec 64) (data : List Byte)
  | journaled (line : Nat) (mask : BitVec 64) (data : List Byte) (slot : SlotNo) (record : Option RecordSpan)
  | mark (group : GroupNo) (kind : MarkKind)
  deriving DecidableEq, Repr

/-- The stage an in-flight entry has reached (R27, R64). -/
inductive Stage where
  /-- a pass-through access handed over to the M-port and not issued -/
  | queued
  /-- a pass-through access issued and not answered -/
  | issued
  | biRead
  | recWrite
  | frontierWait
  /-- DATA_WRITE, the data write not yet issued -/
  | dataQueued
  /-- DATA_WRITE, the data write issued: the data phase has begun (R64) -/
  | dataIssued
  /-- a MARK that is a closing waiter -/
  | waiting
  /-- answered, its response not yet sent -/
  | done
  deriving DecidableEq, Repr

/-- An entry of the in-flight table; the table's order is the admission order (R64). -/
structure Inflight where
  source : Source
  tag : ReqTag
  work : Work
  stage : Stage
  deriving DecidableEq, Repr

/-- Reason codes (R30). -/
inductive Reason where
  | malformed
  | roRegion
  | noGroup
  | gated
  | recovering
  | halted
  | faulted
  | conflict
  | groupTableFull
  | claimTableFull
  | logFull
  | holdTimeout
  | holdListFull
  | groupClosing
  | notOpen
  | tooLate
  | damaged
  | memError
  | broken
  deriving DecidableEq, Repr

/-- A response's status with its reason, and a READ's bytes (R30). -/
inductive Answer where
  | done (data : List Byte)
  | refused (r : Reason)
  | failed (r : Reason)
  deriving DecidableEq, Repr

/-- A decided response; `admitted` says that an in-flight entry frees when it is sent (R27, R30). -/
structure Response where
  source : Source
  tag : ReqTag
  answer : Answer
  admitted : Bool
  deriving DecidableEq, Repr

/-- Intake queue, admission pause, hold list, in-flight table and decided responses. -/
structure HostSide where
  intake : List Intake
  paused : Option Pause
  holds : List Hold
  inflight : List Inflight
  responses : List Response
  deriving DecidableEq, Repr

/-! ### The log engine (chapter 1) -/

/-- The log geometry (R1). -/
structure Geometry where
  base : Nat
  exponent : Nat
  deriving DecidableEq, Repr

/-- Record kinds (R4). -/
inductive RecKind where
  | before
  | void
  | commit
  | rollback
  | pad
  deriving DecidableEq, Repr

/-- The header values of a record (R5, R6); `unrestored` is the outcome UNRESTORED. -/
structure Header where
  kind : RecKind
  slots : Nat
  key : Key
  unrestored : Bool
  pos : Nat
  gen : Nat
  back : Nat
  line : Nat
  first : Nat
  count : Nat
  records : Nat
  deriving DecidableEq, Repr

/-- The two anchor copies (R19). -/
inductive Copy where
  | a
  | b
  deriving DecidableEq, Repr

/-- The anchor states (R19). -/
inductive AnchorState where
  | clean
  | active
  deriving DecidableEq, Repr

/-- The values of an anchor (R19). -/
structure Anchor where
  serial : Nat
  gen : Nat
  state : AnchorState
  exponent : Nat
  tail : Nat
  deriving DecidableEq, Repr

/-- The log engine's record of the newest durable anchor (R19). -/
structure DurableAnchor where
  copy : Copy
  serial : Nat
  state : AnchorState
  tail : Nat
  deriving DecidableEq, Repr

/-- What an anchor write is for. `beforeStop` is a running anchor write outstanding when STOP was taken (R144). -/
inductive AnchorUse where
  | running
  | drain
  | beforeStop
  | stop
  | freshFirst
  | freshSecond
  | recovery
  deriving DecidableEq, Repr

/-- The anchor write in progress (R20) or the 1 ms retry that waits (R23). -/
inductive AnchorOp where
  | idle
  | writing (copy : Copy) (anchor : Anchor) (use : AnchorUse)
  | retryWait (copy : Copy) (due : Nat) (use : AnchorUse)
  deriving DecidableEq, Repr

/-- A closing record that is due and not yet allocated (R12, R96, R103, R107). -/
inductive Closing where
  | commit
  | restored
  | unrestored
  deriving DecidableEq, Repr

/-- A due closing record with its group slot. -/
structure DueClose where
  slot : SlotNo
  what : Closing
  deriving DecidableEq, Repr

/-- The log engine (R1, R3, R12, R19 to R24). -/
structure LogSide where
  geometry : Option Geometry
  head : Nat
  volatileTail : Nat
  persistedTail : Nat
  gen : Nat
  newest : Option DurableAnchor
  window : List Header
  due : List DueClose
  anchorOp : AnchorOp
  followUp : Bool
  failures : Nat
  lowArmed : Bool
  deriving DecidableEq, Repr

/-! ### The M-port (chapter 7) -/

/-- Requester classes (R111). -/
inductive Cls where
  | log
  | rollback
  | traffic
  deriving DecidableEq, Repr

/-- What an M-port request serves (R111, R113). -/
inductive Ref where
  | biRead (pos : Nat)
  | recordWrite (pos : Nat) (retry : Bool)
  | anchorWrite
  | walkRead (pos : Nat)
  | restore
  | scanRead
  | anchorRead (copy : Copy)
  | passRead (source : Source) (tag : ReqTag)
  | passWrite (source : Source) (tag : ReqTag)
  | dataWrite (source : Source) (tag : ReqTag)
  /-- the requester has no further use for the answer (R119, R136) -/
  | dropped
  /-- issued before a warm reset (R120) -/
  | preReset
  deriving DecidableEq, Repr

/-- An M-port request (R110). `mask` and `data` matter for a WRITE only. -/
structure MReq where
  ref : Ref
  write : Bool
  addr : Nat
  len : Nat
  mask : BitVec 96
  data : List Byte
  deriving DecidableEq, Repr

/-- Tag states (R113). -/
inductive TagState where
  | free
  | outstanding
  | retired
  deriving DecidableEq, Repr

/-- An entry of the outstanding-request table (R113). `raced` marks the bytes of a READ that some WRITE was changing
while the READ was outstanding (log 6). -/
structure TagEntry where
  state : TagState
  cls : Cls
  req : MReq
  limit : Nat
  raced : BitVec 96
  deriving DecidableEq, Repr

/-- A FREE tag. R113 gives the state FREE alone; the other fields are the model's (log 45). -/
def TagEntry.free : TagEntry :=
  ⟨.free, .traffic, ⟨.dropped, false, 0, 0, 0, []⟩, 0, 0⟩

/-- The M-port (R111, R113, R115). -/
structure MPort where
  logQ : List MReq
  rollbackQ : List MReq
  trafficQ : List MReq
  tags : Vector TagEntry 16
  last : Cls
  deriving DecidableEq, Repr

/-! ### Bridge control, regions and START (chapters 2 and 9) -/

/-- Bridge states (R134). -/
inductive Bridge where
  | gated
  | recovering
  | running
  | draining
  | halted
  | faulted
  deriving DecidableEq, Repr

/-- Region classes (R31). -/
inductive RegionClass where
  | journaled
  | readOnly
  | pass
  deriving DecidableEq, Repr

/-- Ungrouped policies (R31). -/
inductive Ungrouped where
  | refuse
  | passUnlogged
  deriving DecidableEq, Repr

/-- An entry of the region table (R31). -/
structure Region where
  valid : Bool
  base : Nat
  size : Nat
  cls : RegionClass
  policy : Ungrouped
  deriving DecidableEq, Repr

/-- A region entry after power-on reset (R31). -/
def Region.reset : Region := ⟨false, 0, 0, .pass, .refuse⟩

/-- The modes of START (R135). -/
inductive StartMode where
  | fresh
  | recover
  deriving DecidableEq, Repr

/-- How far a START has come (R136 to R142). -/
inductive StartPhase where
  | anchors
  | freshWrites
  | scan
  | rollback
  | finalAnchor
  deriving DecidableEq, Repr

/-- What the START knows of one anchor copy (R136). -/
inductive CopyRead where
  | pending
  | invalid
  | valid (anchor : Anchor)
  deriving DecidableEq, Repr

/-- A START in progress (R136 to R142); `stopping` is a recovery stop by PFW that waits for its stop point (R133). -/
structure StartOp where
  mode : StartMode
  phase : StartPhase
  copyA : CopyRead
  copyB : CopyRead
  topGen : Nat
  tail : Nat
  scanPos : Nat
  scanned : Nat
  rolledBack : Nat
  stopping : Bool
  deriving DecidableEq, Repr

/-! ### The management link (chapter 10) -/

/-- Hold policies (R154). -/
inductive HoldPolicy where
  | hold
  | refuse
  deriving DecidableEq, Repr

/-- Idle actions (R154). -/
inductive IdleAction where
  | commit
  | rollback
  deriving DecidableEq, Repr

/-- Resume policies (R154). -/
inductive ResumePolicy where
  | auto
  | manual
  deriving DecidableEq, Repr

/-- PFW polarities (R122). -/
inductive Polarity where
  | activeLow
  | activeHigh
  deriving DecidableEq, Repr

/-- The eight policy values (R154). -/
structure Policy where
  holdPolicy : HoldPolicy
  holdLimit : Nat
  idleLimit : Nat
  idleAction : IdleAction
  lowWater : Nat
  resumePolicy : ResumePolicy
  resumeDelay : Nat
  polarity : Polarity
  deriving DecidableEq, Repr

/-- The policy values after power-on reset (R154). -/
def Policy.reset : Policy := ⟨.hold, 1000, 0, .rollback, 0, .auto, 10, .activeLow⟩

/-- The statuses of a response frame that an answer or a frame test can place (R151). -/
inductive Status where
  | ok
  | pending
  | none
  | frameError
  | unknown
  | range
  | state
  | busy
  | locked
  | overlap
  | notFound
  | empty
  | memError
  deriving DecidableEq, Repr

/-- The response buffer (R147, R151). -/
inductive Buffer where
  | none
  | answer (status : Status) (data : List Byte)
  deriving DecidableEq, Repr

/-- The link state; an executing command's code and parameters are held until its answer is placed (R147, R150). -/
inductive LinkState where
  | idle
  | executing (code : Nat) (params : List Byte)
  deriving DecidableEq, Repr

/-- The management link (R147, R150, R151, R153, R154). -/
structure Link where
  straps : Fin 4
  state : LinkState
  buffer : Buffer
  lock : Fin 4
  policy : Policy
  deriving DecidableEq, Repr

/-! ### The notice unit (chapter 11) -/

/-- Notice kinds (R163). -/
inductive NoticeKind where
  | groupCommitted
  | groupRolledBack
  | groupReleased
  | groupBroken
  | recordVoided
  | anchorError
  | logFaulted
  | recoveryFailed
  | drainDone
  | resumed
  | recoveryDone
  | logLow
  deriving DecidableEq, Repr

/-- The causes and details a notice can carry (R163, spec 12.5). -/
inductive Detail where
  | none
  | cause (c : Cause)
  | check
  | mismatch
  | memError
  | power
  | noAnchor
  | geometry
  | corrupt
  | readError
  | writeError
  | copy (c : Copy)
  | logWrite
  | anchorWrite
  | recovery
  | anchorState (st : AnchorState)
  | resume (p : ResumePolicy)
  deriving DecidableEq, Repr

/-- An entry of the notice queue (R161). -/
structure Notice where
  kind : NoticeKind
  lost : Nat
  number : Nat
  key : Key
  detail : Detail
  count : Nat
  position : Nat
  deriving DecidableEq, Repr

/-- The seven counters (R166). -/
structure Counters where
  committed : Nat
  rolledBack : Nat
  records : Nat
  loggedBytes : Nat
  refusals : Nat
  holdTimeouts : Nat
  memErrors : Nat
  deriving DecidableEq, Repr

/-- All seven counters at 0 (R167). -/
def Counters.zero : Counters := ⟨0, 0, 0, 0, 0, 0, 0⟩

/-- The notice unit (R161, R165, R166); the mask's bits are GROUP, FAULT, STATE, SPACE from bit 0 (R169). -/
structure NoticeUnit where
  queue : List Notice
  next : Nat
  mask : BitVec 4
  counters : Counters
  deriving DecidableEq, Repr

/-! ### The machine -/

/-- Persistent memory: address and byte pairs, addresses strictly rising, no entry equal to what an unlisted address
reads as (log 2). -/
abbrev Memory := List Host.Cell

/-- The state of the J24, the persistent memory behind it, the timebase and the queue of waiting commands. -/
structure State where
  power : Bool
  bridge : Bridge
  start : Option StartOp
  regions : Vector Region 8
  host : HostSide
  grp : GroupSide
  log : LogSide
  mport : MPort
  link : Link
  notes : NoticeUnit
  pfwHigh : Bool
  resumeAt : Option Nat
  now : Nat
  mem : Memory
  pending : List Instr
  deriving DecidableEq, Repr

/-- The host side after either reset (R41). -/
def HostSide.reset : HostSide := ⟨[], none, [], [], []⟩

/-- The group side after either reset (R43, R50, R98, R99). -/
def GroupSide.reset : GroupSide := ⟨Vector.replicate 4 GroupSlot.free, [], [], none⟩

/-- The log engine after a reset that leaves this geometry (spec 1.10). -/
def LogSide.reset (g : Option Geometry) : LogSide :=
  ⟨g, 0, 0, 0, 0, none, [], [], .idle, false, 0, true⟩

/-- The M-port after power-on reset (R113, R120). -/
def MPort.reset : MPort := ⟨[], [], [], Vector.replicate 16 TagEntry.free, .traffic⟩

/-- The management link after a power-on reset with these straps (R160). -/
def Link.reset (straps : Fin 4) : Link := ⟨straps, .idle, .none, 0, Policy.reset⟩

/-- The notice unit after power-on reset: the mask holds FAULT alone (R161, R165, R167). -/
def NoticeUnit.reset : NoticeUnit := ⟨[], 0, 0b0010#4, Counters.zero⟩

/-- The part after a power-on reset that samples these straps, with this PFW pin level, memory and command queue. The
timebase starts at 0 (log 3). -/
def State.powerOn (straps : Fin 4) (pfwHigh : Bool) (mem : Memory) (pending : List Instr) : State where
  power := true
  bridge := .gated
  start := none
  regions := Vector.replicate 8 Region.reset
  host := HostSide.reset
  grp := GroupSide.reset
  log := LogSide.reset none
  mport := MPort.reset
  link := Link.reset straps
  notes := NoticeUnit.reset
  pfwHigh := pfwHigh
  resumeAt := none
  now := 0
  mem := mem
  pending := pending

/-- The machine right after power-on reset. DESIGN CHOICE (unsafe): straps 0 and the PFW pin high, that is deasserted
(log 1); memory with nothing listed (log 2). -/
def State.reset : State := State.powerOn 0 true [] []

end Sys2Proof.Machine
end

