-- ==== Sys2Proof/Machine/Ops.lean ====
section
/-! DEFINITION. Ops: the operations every block shares: bytes and memory, the group slots and tags, responses, notices
and counters, the class queues. -/

namespace Sys2Proof.Machine

/-! ### Bytes (R168, R169: little-endian) -/

/-- The low `width` bytes of a number, least significant first. -/
def leBytes : Nat → Nat → List Byte
  | 0, _ => []
  | w + 1, n => BitVec.ofNat 8 n :: leBytes w (n / 256)

/-- The number a byte sequence spells, least significant first. -/
def leValue : List Byte → Nat
  | [] => 0
  | b :: bs => b.toNat + 256 * leValue bs

/-- The field of `width` bytes at an offset. -/
def field (bs : List Byte) (offset width : Nat) : Nat :=
  leValue ((bs.drop offset).take width)

/-- The bytes followed by zeros up to a length. -/
def padTo (n : Nat) (bs : List Byte) : List Byte :=
  bs ++ List.replicate (n - bs.length) 0

/-! ### Persistent memory (R110) -/

/-- What an address nothing has written reads as. DESIGN CHOICE, unsafe (log 2). -/
def unlistedByte : Byte := 0

/-- The byte memory holds at an address. -/
def Memory.get : Memory → Nat → Byte
  | [], _ => unlistedByte
  | (a, v) :: m, x => if x = a then v else Memory.get m x

/-- Stores one byte and keeps the canonical form: storing what an unlisted address reads as removes the entry. -/
def Memory.set : Memory → Nat → Byte → Memory
  | [], x, v => if v = unlistedByte then [] else [(x, v)]
  | (a, w) :: m, x, v =>
    if x < a then (if v = unlistedByte then (a, w) :: m else (x, v) :: (a, w) :: m)
    else if x = a then (if v = unlistedByte then m else (x, v) :: m)
    else (a, w) :: Memory.set m x v

/-- The canonical form: addresses strictly rising, no entry equal to what an unlisted address reads as. -/
def Memory.wf : Memory → Bool
  | [] => true
  | (a, v) :: m => decide (v ≠ unlistedByte) && decide (∀ c ∈ m, a < c.1) && Memory.wf m

/-- The bytes memory holds from an address on. -/
def Memory.span (m : Memory) (addr len : Nat) : List Byte :=
  (List.range len).map fun j => m.get (addr + j)

/-- Stores the first `n` bytes of a WRITE's span at the places its mask and `landed` both select. -/
def Memory.store (m : Memory) (addr : Nat) (mask landed : BitVec 96) (data : List Byte) : Nat → Memory
  | 0 => m
  | n + 1 =>
    let m' := Memory.store m addr mask landed data n
    if mask.getLsbD n && landed.getLsbD n then m'.set (addr + n) (data.getD n 0) else m'

/-- What memory holds after a WRITE of which the `landed` selected bytes changed; a READ changes nothing (R110). -/
def MReq.storeTo (q : MReq) (landed : BitVec 96) (m : Memory) : Memory :=
  if q.write then m.store q.addr q.mask landed q.data q.len else m

/-- Whether a request is a WRITE that may change the byte at an address (R110). -/
def MReq.selects (q : MReq) (a : Nat) : Bool :=
  q.write && decide (q.addr ≤ a) && decide (a < q.addr + q.len) && q.mask.getLsbD (a - q.addr)

/-- Whether two requests' spans share a byte (R112). -/
def MReq.overlaps (p q : MReq) : Bool :=
  decide (p.addr < q.addr + q.len) && decide (q.addr < p.addr + p.len)

/-- A mask of n bits set, from bit `first` on. -/
def spanMask (w first n : Nat) : BitVec w :=
  ((BitVec.allOnes w) >>> (w - n)) <<< first

/-- Every byte of a span selected. -/
def fullMask : BitVec 96 := BitVec.allOnes 96

/-! ### Lines (spec 00, section 7) -/

/-- The line of a byte address. -/
def lineOf (addr : Nat) : Nat := addr / Config.lineBytes

/-- The byte address of a line. -/
def lineAddr (line : Nat) : Nat := line * Config.lineBytes

/-! ### Group slots and M-port tags -/

/-- The group slot numbers, lowest first. -/
def allSlots : List SlotNo := [0, 1, 2, 3]

/-- The M-port tags, lowest first. -/
def allTags : List MTag := [0, 1, 2, 3, 4, 5, 6, 7, 8, 9, 10, 11, 12, 13, 14, 15]

/-- The group slot with a number. -/
def State.slot (s : State) (i : SlotNo) : GroupSlot := s.grp.slots[i]

/-- Changes one group slot. -/
def State.updSlot (s : State) (i : SlotNo) (f : GroupSlot → GroupSlot) : State :=
  { s with grp := { s.grp with slots := s.grp.slots.set i (f s.grp.slots[i]) } }

/-- The outstanding-request entry of a tag. -/
def State.tag (s : State) (t : MTag) : TagEntry := s.mport.tags[t]

/-- Changes the outstanding-request entry of one tag. -/
def State.setTag (s : State) (t : MTag) (e : TagEntry) : State :=
  { s with mport := { s.mport with tags := s.mport.tags.set t e } }

/-- The slot that is not FREE and carries a key (R42). -/
def State.findSlot (s : State) (k : Key) : Option SlotNo :=
  allSlots.find? fun i => decide ((s.slot i).state ≠ .free) && decide ((s.slot i).key = k)

/-- The lowest-numbered FREE slot (R44, R45). -/
def State.freeSlot (s : State) : Option SlotNo :=
  allSlots.find? fun i => decide ((s.slot i).state = .free)

/-- The claim entry of a line (R51). -/
def State.claimOf (s : State) (line : Nat) : Option Claim :=
  s.grp.claims.find? fun c => decide (c.line = line)

/-- The number of slots not FREE (R45, R128). -/
def State.slotsInUse (s : State) : Nat :=
  (allSlots.filter fun i => decide ((s.slot i).state ≠ .free)).length

/-! ### Counters and notices (R161 to R167) -/

/-- A saturating 32-bit addition (R166). -/
def satAdd (a b : Nat) : Nat := min (a + b) Config.counterMax

/-- Changes the counters. -/
def State.count (s : State) (f : Counters → Counters) : State :=
  { s with notes := { s.notes with counters := f s.notes.counters } }

/-- Adds 1 to MEM_ERRORS (R116, R117, R120). -/
def Counters.memError (c : Counters) : Counters := { c with memErrors := satAdd c.memErrors 1 }

/-- Places a built entry in a queue (R162): a full queue loses its newest entry into the new one's lost count. -/
def placeNotice (q : List Notice) (n : Notice) : List Notice :=
  if q.length < Config.noticeDepth then q ++ [n]
  else q.dropLast ++ [{ n with lost := min 255 ((q.getLast?.map (·.lost)).getD 0 + 1) }]

/-- Posts a notice (R161, R162). A count above 65535 is reported as 65535. -/
def State.post (s : State) (kind : NoticeKind) (key : Key) (detail : Detail) (count position : Nat) : State :=
  { s with notes := { s.notes with
      queue := placeNotice s.notes.queue ⟨kind, 0, s.notes.next, key, detail, min count 65535, position⟩
      next := (s.notes.next + 1) % 65536 } }

/-! ### Responses (R30) -/

/-- Decides a response. REFUSALS counts it when it is sent (R166, log 11). -/
def State.respond (s : State) (source : Source) (tag : ReqTag) (a : Answer) (admitted : Bool) : State :=
  { s with host := { s.host with responses := s.host.responses ++ [⟨source, tag, a, admitted⟩] } }

/-- Refuses a request that has no in-flight entry (R30). -/
def State.refuse (s : State) (r : Request) (reason : Reason) : State :=
  s.respond r.source r.tag (.refused reason) false

/-- Whether an in-flight entry is the request with this source and tag, not yet answered. -/
def Inflight.isLive (e : Inflight) (source : Source) (tag : ReqTag) : Bool :=
  decide (e.source = source) && decide (e.tag = tag) && decide (e.stage ≠ .done)

/-- Moves the in-flight entry of a request to a stage (R64). -/
def State.setStage (s : State) (source : Source) (tag : ReqTag) (st : Stage) : State :=
  { s with host := { s.host with
      inflight := s.host.inflight.map fun e => if e.isLive source tag then { e with stage := st } else e } }

/-- Answers an admitted request: its entry waits for the response to be sent (R30, R64). -/
def State.answerAdmitted (s : State) (source : Source) (tag : ReqTag) (a : Answer) : State :=
  (s.setStage source tag .done).respond source tag a true

/-- The live in-flight entry of a request. -/
def State.findInflight (s : State) (source : Source) (tag : ReqTag) : Option Inflight :=
  s.host.inflight.find? fun e => e.isLive source tag

/-! ### Class queues (R111) -/

/-- The class of a request by its requester and purpose (R111). A dropped or pre-reset request keeps the class its
table entry holds; this value is not used for it. -/
def Ref.cls : Ref → Cls
  | .biRead _ | .recordWrite _ _ | .anchorWrite => .log
  | .walkRead _ | .restore | .scanRead | .anchorRead _ => .rollback
  | .passRead _ _ | .passWrite _ _ | .dataWrite _ _ | .dropped | .preReset => .traffic

/-- The queue of a class. -/
def MPort.queue (p : MPort) : Cls → List MReq
  | .log => p.logQ
  | .rollback => p.rollbackQ
  | .traffic => p.trafficQ

/-- Replaces the queue of a class. -/
def MPort.setQueue (p : MPort) (c : Cls) (q : List MReq) : MPort :=
  match c with
  | .log => { p with logQ := q }
  | .rollback => { p with rollbackQ := q }
  | .traffic => { p with trafficQ := q }

/-- Hands a request over to the M-port: it joins the back of its class queue (R111). -/
def State.handOver (s : State) (q : MReq) : State :=
  { s with mport := s.mport.setQueue q.ref.cls (s.mport.queue q.ref.cls ++ [q]) }

/-- Withdraws the requests not yet issued whose reference satisfies `p` (R111). -/
def State.withdraw (s : State) (p : Ref → Bool) : State :=
  { s with mport := { s.mport with
      logQ := s.mport.logQ.filter fun q => !p q.ref
      rollbackQ := s.mport.rollbackQ.filter fun q => !p q.ref
      trafficQ := s.mport.trafficQ.filter fun q => !p q.ref } }

/-- A request of no further use to its requester, when its reference satisfies `p` (R119). -/
def MReq.disown (p : Ref → Bool) (q : MReq) : MReq := if p q.ref then { q with ref := .dropped } else q

/-- An OUTSTANDING entry whose request is of no further use to its requester (R119). -/
def TagEntry.disown (p : Ref → Bool) (e : TagEntry) : TagEntry :=
  if e.state = .outstanding then { e with req := e.req.disown p } else e

/-- The requester has no further use for its requests whose reference satisfies `p`: they stay in their queues and tags,
run to their answers, and those are discarded (R111, R119, R121, R136). -/
def State.disown (s : State) (p : Ref → Bool) : State :=
  { s with mport := { s.mport with
      logQ := s.mport.logQ.map (MReq.disown p)
      rollbackQ := s.mport.rollbackQ.map (MReq.disown p)
      trafficQ := s.mport.trafficQ.map (MReq.disown p)
      tags := s.mport.tags.map (TagEntry.disown p) } }

/-- Whether some OUTSTANDING request has a reference that satisfies `p`. -/
def State.outstanding (s : State) (p : Ref → Bool) : Bool :=
  allTags.any fun t => decide ((s.tag t).state = .outstanding) && p (s.tag t).req.ref

/-! ### The management link's answer (R151, R152) -/

/-- Places a command's answer in the response buffer; the link is IDLE (R152). -/
def State.answerLink (s : State) (st : Status) (data : List Byte) : State :=
  { s with link := { s.link with state := .idle, buffer := .answer st data } }

/-! ### The powered part -/

/-- A step of the part: without supply nothing happens until a power-on reset (log 8). -/
def live (s : State) (f : State → State) : Host.Outcome State Fault Refusal :=
  .next (if s.power then f s else s)

end Sys2Proof.Machine
end

