-- ==== Sys2Proof/Machine/Operands.lean ====
section
/-! DEFINITION. Operands: the check word, the layouts of records, anchors, notices and management frames, and the
decoding of a command's parameters (R5 to R8, R19, R168, R169). -/

namespace Sys2Proof.Machine

/-! ### The check word (R8) -/

/-- The polynomial 0x1EDC6F41 with its bits reflected, for bytes taken least significant bit first. -/
def crcPoly : Nat := 0x82F63B78

/-- One bit of the CRC-32C. -/
def crcBit (c : Nat) : Nat :=
  bif c.testBit 0 then (c >>> 1) ^^^ crcPoly else c >>> 1

/-- One byte of the CRC-32C. -/
def crcByte (c : Nat) (b : Byte) : Nat :=
  crcBit (crcBit (crcBit (crcBit (crcBit (crcBit (crcBit (crcBit (c ^^^ b.toNat))))))))

/-- The CRC-32C of a byte sequence: initial value 0xFFFFFFFF, all bits inverted at the end (R8). -/
def crc32c (bs : List Byte) : Nat :=
  (bs.foldl crcByte 0xFFFFFFFF) ^^^ 0xFFFFFFFF

/-! ### Ring geometry (R1, R2) -/

/-- The number of ring slots (R1). -/
def Geometry.slots (g : Geometry) : Nat := 2 ^ g.exponent

/-- One past the log area (R1). -/
def Geometry.areaEnd (g : Geometry) : Nat := g.base + 128 + 32 * g.slots

/-- The address of the ring slot of a position (R2). -/
def Geometry.slotAddr (g : Geometry) (pos : Nat) : Nat := g.base + 128 + 32 * (pos % g.slots)

/-- The ring slots from a position's ring index to the end of the ring (R10). -/
def Geometry.slotsLeft (g : Geometry) (pos : Nat) : Nat := g.slots - pos % g.slots

/-- The address of an anchor copy (R20). -/
def Geometry.anchorAddr (g : Geometry) : Copy → Nat
  | .a => g.base
  | .b => g.base + 64

/-- The bytes a walk or scan READ covers (R100, R139). -/
def Geometry.readLen (g : Geometry) (pos : Nat) : Nat := 32 * min 3 (g.slotsLeft pos)

/-- The other anchor copy. -/
def Copy.other : Copy → Copy
  | .a => .b
  | .b => .a

/-- The ring slots of a BEFORE with a byte count (R4). -/
def beforeSlots (count : Nat) : Nat := if count ≤ 32 then 2 else 3

/-- The ring slots of the PAD a record of `n` ring slots needs at a head, 0 for none (R10). -/
def padSlots (g : Geometry) (head n : Nat) : Nat :=
  if g.slotsLeft head < n then g.slotsLeft head else 0

/-! ### Records (R5 to R7, R168) -/

/-- Kind codes. -/
def RecKind.code : RecKind → Nat
  | .before => 1
  | .void => 2
  | .commit => 3
  | .rollback => 4
  | .pad => 5

/-- The key byte: source in bits 6 to 4, group number in bits 3 to 0. -/
def Key.byte (k : Key) : Byte := BitVec.ofNat 8 (k.source.val * 16 + k.group.val)

/-- The key a key byte names; bit 7 is not part of it (log 21). -/
def Key.ofByte (b : Nat) : Key := ⟨Fin.ofNat 8 (b / 16), Fin.ofNat 16 b⟩

/-- Header bytes 4 to 31. -/
def Header.body (h : Header) : List Byte :=
  leBytes 1 h.kind.code ++ leBytes 1 h.slots ++ [h.key.byte] ++ leBytes 1 (if h.unrestored then 1 else 0)
    ++ leBytes 8 h.pos ++ leBytes 4 h.gen ++ leBytes 4 h.back ++ leBytes 4 h.line
    ++ leBytes 1 h.first ++ leBytes 1 h.count ++ leBytes 2 h.records

/-- The bytes of a header-only record write: check word over the header alone (R8, R13, R17). -/
def Header.bytes (h : Header) : List Byte := leBytes 4 (crc32c h.body) ++ h.body

/-- The bytes of a BEFORE's record write: check word over header and payload, header, payload, zeros (R7, R8, R13). -/
def Header.bytesWith (h : Header) (payload : List Byte) : List Byte :=
  padTo (32 * h.slots) (leBytes 4 (crc32c (h.body ++ payload)) ++ h.body ++ payload)

/-- A record header as read back from the ring, by its layout (R168). -/
structure RawHeader where
  check : Nat
  kind : Nat
  slots : Nat
  keyByte : Nat
  outcome : Nat
  pos : Nat
  gen : Nat
  back : Nat
  line : Nat
  first : Nat
  count : Nat
  records : Nat
  deriving DecidableEq, Repr

/-- Reads a header by its layout (R168). -/
def RawHeader.parse (bs : List Byte) : RawHeader where
  check := field bs 0 4
  kind := field bs 4 1
  slots := field bs 5 1
  keyByte := field bs 6 1
  outcome := field bs 7 1
  pos := field bs 8 8
  gen := field bs 16 4
  back := field bs 20 4
  line := field bs 24 4
  first := field bs 28 1
  count := field bs 29 1
  records := field bs 30 2

/-- The payload bytes of a BEFORE read back (R7). -/
def RawHeader.payload (h : RawHeader) (bs : List Byte) : List Byte := (bs.drop 32).take h.count

/-- The check word recomputed over what was read equals the stored one; a BEFORE whose payload was not read whole
fails (R8, R100, R139, log 20). -/
def RawHeader.checkPasses (h : RawHeader) (bs : List Byte) : Bool :=
  if h.kind = RecKind.before.code then
    decide ((h.payload bs).length = h.count) && decide (crc32c ((bs.drop 4).take 28 ++ h.payload bs) = h.check)
  else decide (crc32c ((bs.drop 4).take 28) = h.check)

/-- The slot count and span of a BEFORE or VOID fit each other (R100, R139). -/
def RawHeader.spanFits (h : RawHeader) : Bool :=
  decide (1 ≤ h.count) && decide (h.count ≤ 64) && decide (h.slots = beforeSlots h.count)
    && decide (h.first + h.count ≤ 64)

/-! ### Anchors (R19, R168) -/

/-- Anchor state codes. -/
def AnchorState.code : AnchorState → Nat
  | .clean => 1
  | .active => 2

/-- Anchor bytes 4 to 63. -/
def Anchor.body (a : Anchor) : List Byte :=
  padTo 60 (leBytes 4 Config.anchorSignature ++ leBytes 8 a.serial ++ leBytes 4 a.gen ++ leBytes 1 a.state.code
    ++ leBytes 1 a.exponent ++ leBytes 2 0 ++ leBytes 8 a.tail)

/-- The 64 bytes of an anchor. -/
def Anchor.bytes (a : Anchor) : List Byte := leBytes 4 (crc32c a.body) ++ a.body

/-- Reads an anchor back; none when the copy is invalid (R19). -/
def Anchor.parse (bs : List Byte) : Option Anchor :=
  let state := field bs 20 1
  let a : Anchor :=
    ⟨field bs 8 8, field bs 16 4, if state = 1 then .clean else .active, field bs 21 1, field bs 24 8⟩
  if crc32c ((bs.drop 4).take 60) = field bs 0 4 ∧ field bs 4 4 = Config.anchorSignature ∧ a.gen ≠ 0 ∧
      (state = 1 ∨ state = 2) ∧ 7 ≤ a.exponent ∧ a.exponent ≤ 21 then some a else none

/-! ### Codes of management frames and notices (R169, spec 12.2 to 12.5) -/

/-- Status codes. -/
def Status.code : Status → Byte
  | .ok => 0x00
  | .pending => 0x01
  | .none => 0x02
  | .frameError => 0x10
  | .unknown => 0x11
  | .range => 0x12
  | .state => 0x13
  | .busy => 0x14
  | .locked => 0x15
  | .overlap => 0x16
  | .notFound => 0x17
  | .empty => 0x18
  | .memError => 0x19

/-- Bridge state codes. -/
def Bridge.code : Bridge → Nat
  | .gated => 1
  | .recovering => 2
  | .running => 3
  | .draining => 4
  | .halted => 5
  | .faulted => 6

/-- Group slot state codes. -/
def SlotState.code : SlotState → Nat
  | .free => 0
  | .opened => 1
  | .committing => 2
  | .rollbackWait => 3
  | .rollingBack => 4
  | .broken => 5

/-- Closing cause codes. -/
def Cause.code : Cause → Nat
  | .mark => 1
  | .idle => 2
  | .abandon => 3
  | .damaged => 4
  | .management => 5
  | .recovery => 6

/-- Region class codes. -/
def RegionClass.code : RegionClass → Nat
  | .journaled => 1
  | .readOnly => 2
  | .pass => 3

/-- The region class of a code. -/
def RegionClass.ofCode : Nat → Option RegionClass
  | 1 => some .journaled
  | 2 => some .readOnly
  | 3 => some .pass
  | _ => none

/-- Ungrouped policy codes. -/
def Ungrouped.code : Ungrouped → Nat
  | .refuse => 1
  | .passUnlogged => 2

/-- The ungrouped policy of a code. -/
def Ungrouped.ofCode : Nat → Option Ungrouped
  | 1 => some .refuse
  | 2 => some .passUnlogged
  | _ => none

/-- Notice kind codes (spec 12.5). -/
def NoticeKind.code : NoticeKind → Nat
  | .groupCommitted => 1
  | .groupRolledBack => 2
  | .groupReleased => 3
  | .groupBroken => 4
  | .recordVoided => 5
  | .anchorError => 6
  | .logFaulted => 7
  | .recoveryFailed => 8
  | .drainDone => 9
  | .resumed => 10
  | .recoveryDone => 11
  | .logLow => 12

/-- Cause and detail codes (spec 12.5). -/
def Detail.code : Detail → Nat
  | .none => 0
  | .cause c => c.code
  | .check => 1
  | .mismatch => 2
  | .memError => 3
  | .power => 4
  | .noAnchor => 5
  | .geometry => 6
  | .corrupt => 7
  | .readError => 1
  | .writeError => 2
  | .copy .a => 1
  | .copy .b => 2
  | .logWrite => 1
  | .anchorWrite => 2
  | .recovery => 3
  | .anchorState st => st.code
  | .resume .auto => 1
  | .resume .manual => 2

/-- The 16 bytes POP_NOTICE returns (spec 12.5). -/
def Notice.bytes (n : Notice) : List Byte :=
  leBytes 1 n.kind.code ++ leBytes 1 n.lost ++ leBytes 2 n.number ++ [n.key.byte] ++ leBytes 1 n.detail.code
    ++ leBytes 2 n.count ++ leBytes 8 n.position

/-- A region entry's bytes in a GET_REGION reply (spec 12.3). -/
def Region.bytes (r : Region) (index : Nat) : List Byte :=
  leBytes 1 index ++ leBytes 1 (if r.valid then 1 else 0) ++ leBytes 8 r.base ++ leBytes 8 r.size
    ++ leBytes 1 r.cls.code ++ leBytes 1 r.policy.code

/-- The policy values' 13 bytes (spec 12.3). -/
def Policy.bytes (p : Policy) : List Byte :=
  leBytes 1 (match p.holdPolicy with | .hold => 1 | .refuse => 2) ++ leBytes 2 p.holdLimit ++ leBytes 2 p.idleLimit
    ++ leBytes 1 (match p.idleAction with | .commit => 1 | .rollback => 2) ++ leBytes 4 p.lowWater
    ++ leBytes 1 (match p.resumePolicy with | .auto => 1 | .manual => 2) ++ leBytes 1 p.resumeDelay
    ++ leBytes 1 (match p.polarity with | .activeLow => 1 | .activeHigh => 2)

/-- The seven counters' 28 bytes (spec 12.4). -/
def Counters.bytes (c : Counters) : List Byte :=
  leBytes 4 c.committed ++ leBytes 4 c.rolledBack ++ leBytes 4 c.records ++ leBytes 4 c.loggedBytes
    ++ leBytes 4 c.refusals ++ leBytes 4 c.holdTimeouts ++ leBytes 4 c.memErrors

/-! ### Parameters (R152, R154, R169) -/

/-- The policy values SET_POLICY's parameters name; none when one is out of range (R154, R169). -/
def PolicyParams.decode (p : PolicyParams) : Option Policy :=
  if (p.holdPolicy = 1 ∨ p.holdPolicy = 2) ∧ 1 ≤ p.holdLimit ∧ p.holdLimit ≤ 65535 ∧ p.idleLimit ≤ 65535 ∧
      (p.idleAction = 1 ∨ p.idleAction = 2) ∧ p.lowWater ≤ 2097152 ∧ (p.resumePolicy = 1 ∨ p.resumePolicy = 2) ∧
      1 ≤ p.resumeDelay ∧ p.resumeDelay ≤ 255 ∧ (p.polarity = 1 ∨ p.polarity = 2) then
    some
      { holdPolicy := if p.holdPolicy = 1 then .hold else .refuse
        holdLimit := p.holdLimit
        idleLimit := p.idleLimit
        idleAction := if p.idleAction = 1 then .commit else .rollback
        lowWater := p.lowWater
        resumePolicy := if p.resumePolicy = 1 then .auto else .manual
        resumeDelay := p.resumeDelay
        polarity := if p.polarity = 1 then .activeLow else .activeHigh }
  else none

/-- The region entry SET_REGION's parameters name, with its index; none when one is out of range (R31, R32). -/
def RegionParams.decode (p : RegionParams) : Option (Fin 8 × Region) :=
  match RegionClass.ofCode p.cls, Ungrouped.ofCode p.policy with
  | some c, some u =>
    if h : p.index < 8 then
      if p.base % 4096 = 0 ∧ p.size % 4096 = 0 ∧ 4096 ≤ p.size ∧ p.size ≤ 2 ^ 34 ∧
          p.base + p.size ≤ Config.addressEnd then
        some (⟨p.index, h⟩, ⟨true, p.base, p.size, c, u⟩)
      else none
    else none
  | _, _ => none

/-- The geometry SET_LOG's parameters name; none when one is out of range (R1, R155). -/
def decodeGeometry (base exponent : Nat) : Option Geometry :=
  let g : Geometry := ⟨base, exponent⟩
  if 7 ≤ exponent ∧ exponent ≤ 21 ∧ base % 4096 = 0 ∧ g.areaEnd ≤ Config.addressEnd then some g else none

/-- The group key of a management command's parameters; none when out of range (R157). -/
def decodeKey (source group : Nat) : Option Key :=
  if h : source < 8 ∧ 1 ≤ group ∧ group < 16 then some ⟨⟨source, h.1⟩, ⟨group, h.2.2⟩⟩ else none

/-- The parameter count of a command code; none for a code that is not a command (R149, R152). -/
def paramCount : Nat → Option Nat
  | 0x01 => some 0
  | 0x02 => some 0
  | 0x03 => some 9
  | 0x04 => some 19
  | 0x05 => some 1
  | 0x06 => some 1
  | 0x07 => some 13
  | 0x08 => some 0
  | 0x09 => some 1
  | 0x0A => some 0
  | 0x0B => some 0
  | 0x0C => some 2
  | 0x0D => some 2
  | 0x0E => some 1
  | 0x0F => some 0
  | 0x10 => some 1
  | 0x11 => some 0
  | 0x12 => some 0
  | 0x13 => some 1
  | _ => none

/-- The sum of a frame's bytes modulo 256 (R149, R151, R169). -/
def byteSum (bs : List Byte) : Byte := bs.foldl (· + ·) 0

/-- SET_REGION's parameters by their layout (spec 12.3). -/
def RegionParams.parse (ps : List Byte) : RegionParams :=
  ⟨field ps 0 1, field ps 1 8, field ps 9 8, field ps 17 1, field ps 18 1⟩

/-- SET_POLICY's parameters by their layout (spec 12.3). -/
def PolicyParams.parse (ps : List Byte) : PolicyParams :=
  ⟨field ps 0 1, field ps 1 2, field ps 3 2, field ps 5 1, field ps 6 4, field ps 10 1, field ps 11 1, field ps 12 1⟩

end Sys2Proof.Machine
end

