-- ==== Sys2Proof/Machine/Flags.lean ====
section
/-! DEFINITION. Flags: the quantities and levels the spec derives from State: free slots, the durability frontier, the
clean barrier, PFW after polarity, the IRQ line, the address classes, and the flag bytes of replies. -/

namespace Sys2Proof.Machine

/-! ### Log quantities -/

/-- The number of ring slots N, 0 without a geometry (R1). -/
def State.ringSlots (s : State) : Nat := (s.log.geometry.map Geometry.slots).getD 0

/-- Free slots; 0 while there is no newest durable anchor (R3). Where a SET_LOG in GATED has made N smaller than the head's
distance from the persisted tail, the difference of R3 is negative and the rules name no value: 0 (DESIGN CHOICE, log 50). -/
def State.freeSlots (s : State) : Nat :=
  match s.log.newest with
  | some _ => s.ringSlots - (s.log.head - s.log.persistedTail)
  | none => 0

/-- The durability frontier: the lowest position in the append window, or the head (R14). -/
def State.frontier (s : State) : Nat :=
  s.log.window.foldl (fun p h => min p h.pos) s.log.head

/-- A record at position p with n ring slots lies wholly behind the frontier (R14). -/
def State.behindFrontier (s : State) (p n : Nat) : Bool := decide (p + n ≤ s.frontier)

/-- The newest durable anchor is ACTIVE: the clean barrier is open (R15, R22). -/
def State.anchorActive (s : State) : Bool :=
  match s.log.newest with
  | some a => decide (a.state = .active)
  | none => false

/-- The newest durable anchor is CLEAN (R158). -/
def State.anchorClean (s : State) : Bool :=
  match s.log.newest with
  | some a => decide (a.state = .clean)
  | none => false

/-- The places of the append window the admission unit may take: a due closing record goes first (R12, log 13). -/
def State.admissionPlaces (s : State) : Nat :=
  Config.windowDepth - s.log.window.length - s.log.due.length

/-- The volatile tail: the lowest first position among slots not FREE, or the head (R3). -/
def State.lowestFirst (s : State) : Nat :=
  allSlots.foldl (fun p i =>
    if (s.slot i).state = .free then p
    else match p with
      | none => some (s.slot i).first
      | some q => some (min q (s.slot i).first)) none |>.getD s.log.head

/-- Recomputes the volatile tail (R3). -/
def State.recomputeTail (s : State) : State :=
  { s with log := { s.log with volatileTail := s.lowestFirst } }

/-! ### Pins -/

/-- PFW asserted, after polarity (R122). -/
def State.pfwAsserted (s : State) : Bool :=
  match s.link.policy.polarity with
  | .activeLow => !s.pfwHigh
  | .activeHigh => s.pfwHigh

/-- The PFW pin level that is asserted under the polarity in force (R122). -/
def State.assertedLevel (s : State) : Bool :=
  match s.link.policy.polarity with
  | .activeLow => false
  | .activeHigh => true

/-- The bit of the notice mask for a kind's class: GROUP 0, FAULT 1, STATE 2, SPACE 3 (R163, R169). -/
def NoticeKind.classBit : NoticeKind → Nat
  | .groupCommitted | .groupRolledBack | .groupReleased => 0
  | .groupBroken | .recordVoided | .anchorError | .logFaulted | .recoveryFailed => 1
  | .drainDone | .resumed | .recoveryDone => 2
  | .logLow => 3

/-- IRQ is driven low: the queue holds an entry whose class is in the mask (R165). -/
def NoticeUnit.irqLow (n : NoticeUnit) : Bool :=
  n.queue.any fun e => n.mask.getLsbD e.kind.classBit

/-! ### Address classes (R33) -/

/-- The class of an address (R33). -/
inductive AddrClass where
  | log
  | journaled (policy : Ungrouped)
  | readOnly
  | pass
  deriving DecidableEq, Repr

/-- An address lies in a valid region entry (R31). -/
def Region.covers (r : Region) (a : Nat) : Bool :=
  r.valid && decide (r.base ≤ a) && decide (a < r.base + r.size)

/-- An address lies in the log area (R1). -/
def State.inLogArea (s : State) (a : Nat) : Bool :=
  match s.log.geometry with
  | some g => decide (g.base ≤ a) && decide (a < g.areaEnd)
  | none => false

/-- Classifies an address by the log area and the entries valid now (R33). -/
def State.classify (s : State) (a : Nat) : AddrClass :=
  if s.inLogArea a then .log
  else match s.regions.toList.find? fun r => r.covers a with
    | some r => match r.cls with
      | .journaled => .journaled r.policy
      | .readOnly => .readOnly
      | .pass => .pass
    | none => .pass

/-- The class is JOURNALED. -/
def AddrClass.isJournaled : AddrClass → Bool
  | .journaled _ => true
  | _ => false

/-- Two address ranges share an address; each is a base and an end. -/
def rangesMeet (b₁ e₁ b₂ e₂ : Nat) : Bool := decide (b₁ < e₂) && decide (b₂ < e₁)

/-- A region's range overlaps the log area, when a geometry is set (R32). -/
def State.meetsLog (s : State) (r : Region) : Bool :=
  match s.log.geometry with
  | some g => rangesMeet r.base (r.base + r.size) g.base g.areaEnd
  | none => false

/-- A log area overlaps a valid region entry (R1, R155). -/
def State.geometryMeetsRegion (s : State) (g : Geometry) : Bool :=
  s.regions.toList.any fun r => r.valid && rangesMeet r.base (r.base + r.size) g.base g.areaEnd

/-- A region's range overlaps a valid entry at another index (R32). -/
def State.meetsRegion (s : State) (i : Fin 8) (r : Region) : Bool :=
  [(0 : Fin 8), 1, 2, 3, 4, 5, 6, 7].any fun j =>
    decide (j ≠ i) && (s.regions[j]).valid
      && rangesMeet r.base (r.base + r.size) (s.regions[j]).base ((s.regions[j]).base + (s.regions[j]).size)

/-- A line's owner is ROLLBACK_WAIT or ROLLING_BACK (R35, R56). -/
def State.lineRollingBack (s : State) (line : Nat) : Bool :=
  match s.claimOf line with
  | some c => decide ((s.slot c.owner).state = .rollbackWait) || decide ((s.slot c.owner).state = .rollingBack)
  | none => false

/-! ### Reply bytes (spec 12.4) -/

/-- A flag byte from its bits, bit 0 first. -/
def flagByte (bits : List Bool) : Byte :=
  BitVec.ofNat 8 (bits.foldr (fun b n => (if b then 1 else 0) + 2 * n) 0)

/-- The 44 bytes of a GET_STATE reply (R158). -/
def State.stateBytes (s : State) : List Byte :=
  leBytes 1 s.bridge.code ++ leBytes 1 s.link.lock.val ++ [flagByte [s.pfwAsserted, s.anchorClean]]
    ++ leBytes 1 s.slotsInUse ++ leBytes 2 s.grp.claims.length ++ leBytes 1 s.host.holds.length
    ++ leBytes 1 s.grp.queue.length ++ leBytes 1 s.notes.queue.length ++ leBytes 3 0
    ++ leBytes 4 s.log.gen ++ leBytes 8 s.log.head ++ leBytes 8 s.log.volatileTail
    ++ leBytes 8 s.log.persistedTail ++ leBytes 4 s.freeSlots

/-- The 40 bytes of a GET_GROUP reply (R59); the remaining idle time in whole ms (log 23). -/
def GroupSlot.bytes (g : GroupSlot) (n : SlotNo) : List Byte :=
  leBytes 1 n.val ++ leBytes 1 g.state.code ++ [g.key.byte]
    ++ [flagByte [g.damaged, g.waiter.isSome, g.idle.isSome, g.closing.isSome]]
    ++ leBytes 1 ((g.cause.map Cause.code).getD 0)
    ++ leBytes 1 ((g.waiter.map fun w => w.source.val).getD 0) ++ leBytes 1 ((g.waiter.map fun w => w.tag.val).getD 0)
    ++ leBytes 1 g.inflight ++ leBytes 2 g.claims ++ leBytes 2 (g.idle.getD 0 / 1000) ++ leBytes 4 g.records
    ++ leBytes 8 g.first ++ leBytes 8 g.newest ++ leBytes 8 (g.closing.getD 0)

end Sys2Proof.Machine
end

