-- ==== Sys2Proof/Machine/Holds.lean ====
section
/-! DEFINITION. Holds: the hold list: wakes, removals and refusals (chapter 5). Re-evaluation stands in Admission. -/

namespace Sys2Proof.Machine

/-- The line a READ or WRITE touches; a MARK touches none (R25). -/
def requestLine : ReqBody → Option Nat
  | .read addr _ => some (lineOf addr.toNat)
  | .write line _ _ _ => some line.toNat
  | .mark _ _ => none

/-- The group key of a grouped WRITE; none for any other request (R25, R42). -/
def writeKeyOf (r : Request) : Option Key :=
  match r.body with
  | .write _ _ _ g => if g = 0 then none else some ⟨r.source, g⟩
  | _ => none

/-- Replaces the hold list. -/
def State.setHolds (s : State) (hs : List Hold) : State := { s with host := { s.host with holds := hs } }

/-- Marks the held entries that satisfy `p`; a marked entry stays marked (R81). -/
def State.wake (s : State) (p : Hold → Bool) : State :=
  s.setHolds (s.host.holds.map fun h => if p h then { h with marked := true } else h)

/-- An entry left the list: the entries that wait on it by ORDER are marked (R81, R84). -/
def State.wakeOrder (s : State) (source : Source) (tag : ReqTag) : State :=
  s.wake fun h => decide (h.reason = .order source tag)

/-- A table frees room: a pause for want of it ends (R27, R62). -/
def Pause.free (r : Room) (p : Pause) : Pause := if p.short = r then { p with freed := true } else p

/-- A table frees room: the entries that stayed for want of it are marked, and a pause for want of it ends (R27, R62, R81,
R83). -/
def State.wakeRoom (s : State) (r : Room) : State :=
  ({ s with host := { s.host with paused := s.host.paused.map (Pause.free r) } } : State).wake
    fun h => decide (h.room = some r)

/-- Wakes the reads held for a rollback of one of these lines (R81, R85). -/
def State.wakeReads (s : State) (lines : List Nat) : State :=
  s.wake fun h => match h.reason with
    | .rollbackRead l => lines.contains l
    | _ => false

/-- The signals of a close: its lines, the freed slot and, when the claim table had been full, its claim entries (R57,
R81, log 31). An entry is marked by its reason whatever its room note (R81, R83, log 42). -/
def State.wakeClose (s : State) (lines : List Nat) (wasFull : Bool) : State :=
  s.wake fun h => match h.reason with
    | .line l | .rollbackRead l => lines.contains l
    | .groupSlot => true
    | .claimSpace => wasFull && !lines.isEmpty
    | .order _ _ | .logSpace => false

/-- Refuses the entries that satisfy `p`, in list order, each removal an ORDER wake (R80, R86). -/
def State.refuseHeld (s : State) (p : Hold → Bool) (reason : Reason) : State :=
  (s.host.holds.filter p).foldl
    (fun s h => (s.refuse h.req reason).wakeOrder h.req.source h.req.tag)
    (s.setHolds (s.host.holds.filter fun h => !p h))

/-- Refuses every held WRITE of a key (R86). -/
def State.refuseHeldWrites (s : State) (k : Key) (reason : Reason) : State :=
  s.refuseHeld (fun h => decide (writeKeyOf h.req = some k)) reason

/-- Removes every entry and refuses it, in list order; no entry is left to wake (R87, R88). -/
def State.emptyHolds (s : State) (reason : Reason) : State :=
  s.host.holds.foldl (fun s h => s.refuse h.req reason) (s.setHolds [])

/-- Whether some entry is marked: the admission unit then takes nothing from the intake (R82). -/
def State.holdsMarked (s : State) : Bool := s.host.holds.any fun h => h.marked

end Sys2Proof.Machine
end

