-- ==== Sys2Proof/Machine/LogEngine.lean ====
section
/-! DEFINITION. LogEngine: allocation, record writes, the low-water comparison and the anchors (chapter 1). -/

namespace Sys2Proof.Machine

/-- The log geometry in force; START needs one to be set (R1, R135). -/
def State.geo (s : State) : Geometry := s.log.geometry.getD ⟨0, 0⟩

/-- The LOG_LOW comparison (R24). -/
def State.lowCompare (s : State) : State :=
  if s.freeSlots < s.link.policy.lowWater then
    if s.log.lowArmed then
      { s with log := { s.log with lowArmed := false } }.post .logLow Key.zero .none s.freeSlots s.log.head
    else s
  else { s with log := { s.log with lowArmed := true } }

/-! ### Allocation (R9 to R12) -/

/-- Allocates a record at the head: it joins the back of the append window, the head moves past it, and free slots are
compared with the low-water value (R9, R24). -/
def State.allocate (s : State) (h : Header) : State :=
  { s with log := { s.log with window := s.log.window ++ [h], head := s.log.head + h.slots } }.lowCompare

/-- Hands a record's write over (R13): `bytes` from the address of its header slot. -/
def State.writeRecord (s : State) (h : Header) (retry : Bool) (bytes : List Byte) : State :=
  s.handOver ⟨.recordWrite h.pos retry, true, s.geo.slotAddr h.pos, bytes.length, spanMask 96 0 bytes.length, bytes⟩

/-- The PAD header for `n` ring slots at the head (R6). -/
def State.padHeader (s : State) (n : Nat) : Header :=
  ⟨.pad, n, Key.zero, false, s.log.head, s.log.gen, 0, 0, 0, 0, 0⟩

/-- Allocates a PAD of `n` ring slots and hands its write over; nothing for 0 (R10, R13). -/
def State.allocatePad (s : State) (n : Nat) : State :=
  if n = 0 then s
  else (s.allocate (s.padHeader n)).writeRecord (s.padHeader n) false (s.padHeader n).bytes

/-- The BEFORE header at the head for a slot's group (R5): the back distance leads to the group's newest record, 0 for
its first. -/
def State.beforeHeader (s : State) (i : SlotNo) (line first count : Nat) : Header :=
  let g := s.slot i
  ⟨.before, beforeSlots count, g.key, false, s.log.head, s.log.gen,
    if g.records = 0 then 0 else s.log.head - g.newest, line, first, count, 0⟩

/-- Allocates a BEFORE for a slot's group and reports it to the group table (R9). -/
def State.allocateBefore (s : State) (i : SlotNo) (line first count : Nat) : State :=
  let h := s.beforeHeader i line first count
  (s.allocate h).updSlot i fun g =>
    { g with newest := h.pos, first := if g.records = 0 then h.pos else g.first, records := g.records + 1 }

/-- The header of a slot's closing record at the head (R6, R43). -/
def State.closingHeader (s : State) (i : SlotNo) (what : Closing) : Header :=
  let g := s.slot i
  ⟨match what with | .commit => .commit | .restored | .unrestored => .rollback, 1, g.key,
    decide (what = .unrestored), s.log.head, s.log.gen, s.log.head - g.first, 0, 0, 0, min g.records 65535⟩

/-- Allocates a slot's closing record, notes it in the slot and hands its write over (R9, R13, R96). -/
def State.allocateClosing (s : State) (c : DueClose) : State :=
  let h := s.closingHeader c.slot c.what
  ((s.allocate h).updSlot c.slot fun g => { g with closing := some h.pos }).writeRecord h false h.bytes

/-! ### Anchors (R19 to R23) -/

/-- The copy that does not hold the newest durable anchor; B when there is none (R20, R137). -/
def State.nextCopy (s : State) : Copy :=
  match s.log.newest with
  | some a => a.copy.other
  | none => .b

/-- The anchor built now: the serial one above the newest durable one, the configured exponent (R20). -/
def State.buildAnchor (s : State) (st : AnchorState) (tail gen : Nat) : Anchor :=
  ⟨(s.log.newest.map (·.serial)).getD 0 + 1, gen, st, s.geo.exponent, tail⟩

/-- Hands an anchor write over; it is the anchor write in progress (R20). -/
def State.writeAnchor (s : State) (c : Copy) (a : Anchor) (use : AnchorUse) : State :=
  { s with log := { s.log with anchorOp := .writing c a use } }.handOver
    ⟨.anchorWrite, true, s.geo.anchorAddr c, 64, spanMask 96 0 64, a.bytes⟩

/-- Builds an anchor of the current generation now and writes it to the next copy (R20). -/
def State.launchAnchor (s : State) (st : AnchorState) (tail : Nat) (use : AnchorUse) : State :=
  s.writeAnchor s.nextCopy (s.buildAnchor st tail s.log.gen) use

/-- The anchor write of a use that is in progress. -/
def State.anchorUse (s : State) : Option AnchorUse :=
  match s.log.anchorOp with
  | .writing _ _ u => some u
  | _ => none

/-- An anchor write is DONE: it is the newest durable anchor, the persisted tail takes its tail, the failure count is 0
(R20). When free slots rise, LOG_SPACE holds wake and the low-water comparison is made (R11, R24). -/
def State.adoptAnchor (s : State) (c : Copy) (a : Anchor) : State :=
  let t : State := { s with log := { s.log with
    newest := some ⟨c, a.serial, a.state, a.tail⟩, persistedTail := a.tail, failures := 0, anchorOp := .idle } }
  if s.freeSlots < t.freeSlots then (t.wake fun h => decide (h.reason = .logSpace)).lowCompare else t

/-- The close trigger (R21). -/
def State.closeTrigger (s : State) : State :=
  if s.bridge = .running ∧ s.log.persistedTail < s.log.volatileTail then
    if s.log.anchorOp = .idle then s.launchAnchor .active s.log.volatileTail .running
    else { s with log := { s.log with followUp := true } }
  else s

/-- The clean barrier trigger, at a BEFORE allocation (R22). -/
def State.barrierTrigger (s : State) : State :=
  if s.bridge = .running ∧ s.anchorClean ∧ s.log.anchorOp = .idle then
    s.launchAnchor .active s.log.volatileTail .running
  else s

/-- The follow-up, looked at when the outstanding anchor write is DONE (R21). -/
def State.followUpAnchor (s : State) : State :=
  if s.log.followUp then { s with log := { s.log with followUp := false } }.closeTrigger else s

/-- The state and tail of the drain anchor (R127). -/
def State.launchDrainAnchor (s : State) : State :=
  s.launchAnchor (if s.slotsInUse = 0 then .clean else .active) s.log.volatileTail .drain

/-- Posts ANCHOR_ERROR for a copy (R23, R163). -/
def State.postAnchorError (s : State) (c : Copy) : State := s.post .anchorError Key.zero (.copy c) 0 0

end Sys2Proof.Machine
end

