-- ==== Sys2Proof/Machine/Groups.lean ====
section
/-! DEFINITION. Groups: entry to the closing states, the closing step, the answers of waiters and the release of a
group (chapters 3 and 6), and the start of data phases (R67). -/

namespace Sys2Proof.Machine

/-! ### Lines and order (R39, R40) -/

/-- The line an admitted request touches. -/
def Work.line : Work → Option Nat
  | .passRead addr _ => some (lineOf addr)
  | .passWrite line _ _ => some line
  | .journaled line _ _ _ _ => some line
  | .mark _ _ => none

/-- The admitted request is a WRITE. -/
def Work.isWrite : Work → Bool
  | .passWrite _ _ _ | .journaled _ _ _ _ _ => true
  | .passRead _ _ | .mark _ _ => false

/-- The admitted request is a READ. -/
def Work.isRead : Work → Bool
  | .passRead _ _ => true
  | .passWrite _ _ _ | .journaled _ _ _ _ _ | .mark _ _ => false

/-- The memory access of a request at this stage has been issued, or is no longer due (R39). -/
def Stage.accessIssued : Stage → Bool
  | .issued | .dataIssued | .done => true
  | .queued | .biRead | .recWrite | .frontierWait | .dataQueued | .waiting => false

/-- The same-source line order for an access (R39): each earlier request of the source to the line has been issued,
and for a WRITE each such READ has been answered. -/
def lineOrder (before : List Inflight) (source : Source) (line : Nat) (isWrite : Bool) : Bool :=
  before.all fun e =>
    !(decide (e.source = source) && decide (e.work.line = some line)) ||
      (e.stage.accessIssued && (!isWrite || !e.work.isRead || decide (e.stage = .done)))

/-- A restore of a line, the one WRITE of the ROLLBACK class (R111), is issued and not answered, whether or not its
requester still wants the answer (R40, R101). -/
def State.restoreOn (s : State) (line : Nat) : Bool :=
  allTags.any fun t => decide ((s.tag t).state = .outstanding) && decide ((s.tag t).cls = .rollback)
    && (s.tag t).req.write && decide (lineOf (s.tag t).req.addr = line)

/-- The read-after-write condition of a READ of a line (R40). -/
def State.readAfterWrite (s : State) (before : List Inflight) (line : Nat) : Bool :=
  (before.all fun e => !(e.work.isWrite && decide (e.work.line = some line)) || decide (e.stage = .done))
    && !s.restoreOn line

/-- The entries admitted before the first one that satisfies `p`. -/
def State.admittedBefore (s : State) (p : Inflight → Bool) : List Inflight :=
  s.host.inflight.takeWhile fun e => !p e

/-! ### Data phases (R67, R68) -/

/-- The data write of an entry, when it waits in FRONTIER_WAIT and the conditions of R67 hold. -/
def State.dataWrite (s : State) (before : List Inflight) (e : Inflight) : Option MReq :=
  match e.work with
  | .journaled line mask data _ record =>
    if e.stage = .frontierWait ∧ s.anchorActive ∧
        (record.map fun r => s.behindFrontier r.pos (beforeSlots r.count)).getD true ∧
        lineOrder before e.source line true then
      some ⟨.dataWrite e.source e.tag, true, lineAddr line, Config.lineBytes, mask.setWidth 96, data⟩
    else none
  | _ => none

/-- Moves every entry that is ready from FRONTIER_WAIT to DATA_WRITE, and lists their data writes in admission order: no
rule orders writes of different lines that leave FRONTIER_WAIT in one step, so the order is the model's (log 48). -/
def State.promoteList (s : State) : List Inflight → List Inflight → List Inflight × List MReq
  | _, [] => ([], [])
  | before, e :: es =>
    match s.dataWrite before e with
    | some q =>
      let e' : Inflight := { e with stage := .dataQueued }
      let r := s.promoteList (before ++ [e']) es
      (e' :: r.1, q :: r.2)
    | none =>
      let r := s.promoteList (before ++ [e]) es
      (e :: r.1, r.2)

/-- Looks at the conditions of R67 again: ready writes move to DATA_WRITE and hand their data writes over, those of one
step in admission order (R111; DESIGN CHOICE, log 48). -/
def State.promote (s : State) : State :=
  let r := s.promoteList [] s.host.inflight
  r.2.foldl State.handOver { s with host := { s.host with inflight := r.1 } }

/-! ### Closing (R86, R96, R98) -/

/-- The slot joins the back of the rollback queue (R98). -/
def State.joinQueue (s : State) (i : SlotNo) : State :=
  { s with grp := { s.grp with queue := s.grp.queue ++ [i] } }

/-- A closing record is due: it waits for the log engine in the order in which it became due (R12, R96, R103). -/
def State.requestClosing (s : State) (i : SlotNo) (what : Closing) : State :=
  { s with log := { s.log with due := s.log.due ++ [⟨i, what⟩] } }

/-- The closing step of a slot, taken at in-flight count 0 and not in FAULTED (R46, R96, R98, R146). -/
def State.closingStep (s : State) (i : SlotNo) : State :=
  if (s.slot i).inflight ≠ 0 ∨ s.bridge = .faulted then s
  else match (s.slot i).state with
    | .committing =>
      if (s.slot i).damaged then
        ((s.updSlot i fun g => { g with state := .rollbackWait, cause := some .damaged }).refuseHeldWrites
          (s.slot i).key .groupClosing).joinQueue i
      else s.requestClosing i .commit
    | .rollbackWait => s.joinQueue i
    | .free | .opened | .rollingBack | .broken => s

/-- An OPEN slot enters COMMITTING or ROLLBACK_WAIT: its idle deadline is cleared, the held WRITEs of its key are
refused, and at in-flight 0 the closing step follows (R47, R86, R91 to R95). -/
def State.enterClosing (s : State) (i : SlotNo) (st : SlotState) (cause : Cause) (waiter : Option Waiter) : State :=
  ((s.updSlot i fun g => { g with state := st, cause := some cause, waiter := waiter, idle := none }).refuseHeldWrites
    (s.slot i).key .groupClosing).closingStep i

/-- A journaled write is answered: its group's in-flight count falls, and the closing step may follow (R46). -/
def State.answerWrite (s : State) (source : Source) (tag : ReqTag) (i : SlotNo) (a : Answer) : State :=
  ((s.answerAdmitted source tag a).updSlot i fun g => { g with inflight := g.inflight - 1 }).closingStep i

/-- Answers a slot's waiter, if any, and takes it from the slot (R97, R104, R105, R145). -/
def State.answerWaiter (s : State) (i : SlotNo) (a : Waiter → Answer) : State :=
  match (s.slot i).waiter with
  | some w => (s.updSlot i fun g => { g with waiter := none }).answerAdmitted w.source w.tag (a w)
  | none => s

/-- The lines a slot claims. -/
def State.claimedLines (s : State) (i : SlotNo) : List Nat :=
  (s.grp.claims.filter fun c => decide (c.owner = i)).map (·.line)

/-- Releases a group: its claims go, its slot is FREE, the hold list is signalled and the volatile tail recomputed
(R57). -/
def State.releaseGroup (s : State) (i : SlotNo) : State :=
  let lines := s.claimedLines i
  let full := decide (Config.claimDepth ≤ s.grp.claims.length)
  let t : State := { s with grp := { s.grp with
    claims := s.grp.claims.filter fun c => decide (c.owner ≠ i), slots := s.grp.slots.set i GroupSlot.free } }
  (t.wakeClose lines full).recomputeTail

/-- The cause a close's notice carries (R109). -/
def GroupSlot.causeDetail (g : GroupSlot) : Detail := (g.cause.map Detail.cause).getD .none

/-- Posts a close's notice (R109, R163). -/
def State.postClose (s : State) (kind : NoticeKind) (g : GroupSlot) (d : Detail) (pos : Nat) : State :=
  s.post kind g.key d g.records pos

/-- A recovery rollback has ended: START counts it (R141, R142). -/
def State.countRecovered (s : State) : State :=
  { s with start := s.start.map fun o => { o with rolledBack := o.rolledBack + 1 } }

/-- A slot's closing record is complete (R16): the group is committed (R97), rolled back (R104, R141) or released
(R107). -/
def State.completeClosing (s : State) (i : SlotNo) : State :=
  let g := s.slot i
  let pos := g.closing.getD 0
  match g.state with
  | .committing =>
    ((((s.answerWaiter i fun _ => .done []).releaseGroup i).count fun c =>
      { c with committed := satAdd c.committed 1 }).postClose .groupCommitted g g.causeDetail pos).closeTrigger
  | .rollingBack =>
    let t := ((((s.answerWaiter i fun w => if w.kind = .commit then .failed .damaged else .done []).releaseGroup i).count
      fun c => { c with rolledBack := satAdd c.rolledBack 1 }).postClose .groupRolledBack g g.causeDetail pos).closeTrigger
    if s.bridge = .recovering then t.countRecovered else t
  | .broken => (((s.releaseGroup i).postClose .groupReleased g .none pos).closeTrigger).answerLink .ok []
  | .free | .opened | .rollbackWait => s

/-- The slots whose closing record lies wholly behind the frontier, lowest position first (R16). -/
def State.completeSlots (s : State) : List SlotNo :=
  (allSlots.filter fun i => match (s.slot i).closing with
    | some p => s.behindFrontier p 1
    | none => false).insertionSort fun i j => (s.slot i).closing.getD 0 ≤ (s.slot j).closing.getD 0

/-- The frontier's new value reaches the group table (R14, R16); in FAULTED the report is not acted on (R146). -/
def State.completeClosings (s : State) : State :=
  if s.bridge = .faulted then s else s.completeSlots.foldl State.completeClosing s

end Sys2Proof.Machine
end

