-- ==== Sys2Proof/Machine/Admission.lean ====
section
/-! DEFINITION. Admission: the decisions of the admission unit, admission itself, pauses, marks and the re-evaluation
of held requests (chapters 2 to 6). -/

namespace Sys2Proof.Machine

/-! ### The needs-log decision (R53) -/

/-- The lowest set bit of a line mask. -/
def lowestBit (m : BitVec 64) : Option Nat := (List.range 64).find? fun b => m.getLsbD b

/-- The highest set bit of a line mask. -/
def highestBit (m : BitVec 64) : Option Nat := (List.range 64).reverse.find? fun b => m.getLsbD b

/-- First byte and byte count of the span from the lowest to the highest new byte; none when no byte is new (R53). -/
def neededSpan (mask logged : BitVec 64) : Option (Nat × Nat) :=
  match lowestBit (mask &&& ~~~logged), highestBit (mask &&& ~~~logged) with
  | some lo, some hi => some (lo, hi - lo + 1)
  | _, _ => none

/-! ### Lookups (R44, R51) -/

/-- The group table's answer to a journaled write (R44). -/
inductive GroupAnswer where
  | join (i : SlotNo)
  | damaged
  | closing
  | opens (i : SlotNo)
  | full
  deriving DecidableEq, Repr

/-- Looks a write's key up in the group table (R44). -/
def State.groupLookup (s : State) (k : Key) : GroupAnswer :=
  match s.findSlot k with
  | some i =>
    if (s.slot i).state = .opened then (if (s.slot i).damaged then .damaged else .join i) else .closing
  | none =>
    match s.freeSlot with
    | some i => .opens i
    | none => .full

/-- The claim table's answer to a write (R51). -/
inductive LineAnswer where
  | owned (mask : BitVec 64)
  | conflict
  | unclaimed
  | full
  deriving DecidableEq, Repr

/-- Looks a line up for a write whose group has this slot, if any (R51). -/
def State.lineLookup (s : State) (line : Nat) (own : Option SlotNo) : LineAnswer :=
  match s.claimOf line with
  | some c => if own = some c.owner then .owned c.mask else .conflict
  | none => if s.grp.claims.length < Config.claimDepth then .unclaimed else .full

/-! ### Verdicts (R34 to R37, R60, R78) -/

/-- What admitting a journaled write will do (R63): its slot, whether the group opens, whether a claim is made, and
the span of its record, if it needs one. -/
structure Plan where
  slot : SlotNo
  opens : Bool
  claims : Bool
  span : Option (Nat × Nat)
  deriving DecidableEq, Repr

/-- The outcome of a READ's or WRITE's decision, room apart. -/
inductive Verdict where
  | refuse (r : Reason)
  | hold (r : HoldReason)
  | pass
  | journal (p : Plan)
  deriving DecidableEq, Repr

/-- A hold that follows the hold policy (R78). -/
def State.holdOr (s : State) (h : HoldReason) (r : Reason) : Verdict :=
  match s.link.policy.holdPolicy with
  | .hold => .hold h
  | .refuse => .refuse r

/-- The latest older held request of a source to a line (R39, R78, R84). -/
def orderWait (older : List Hold) (source : Source) (line : Nat) : Option Hold :=
  older.reverse.find? fun h => decide (h.req.source = source) && decide (requestLine h.req.body = some line)

/-- A READ or WRITE with an older held request of its source to its line is held behind it; otherwise its own verdict
stands (R39, R78). -/
def orderedOr (older : List Hold) (source : Source) (line : Nat) (v : Verdict) : Verdict :=
  match orderWait older source line with
  | some h => .hold (.order h.req.source h.req.tag)
  | none => v

/-- The PAD and record slots a span takes at the head (R61). -/
def State.recordSlots (s : State) (count : Nat) : Nat :=
  padSlots s.geo s.log.head (beforeSlots count) + beforeSlots count

/-- Step 7 of R60: no record needed, or the reserve stays free after PAD and BEFORE (R11, R61). -/
def State.reserveHolds (s : State) (span : Option (Nat × Nat)) : Bool :=
  match span with
  | none => true
  | some (_, count) => decide (s.recordSlots count + Config.reserve ≤ s.freeSlots)

/-- Steps 6 and 7 of R60 for a journaled write whose group has, or would open, slot `i`. -/
def State.lineVerdict (s : State) (line : Nat) (mask : BitVec 64) (i : SlotNo) (opens : Bool) : Verdict :=
  match s.lineLookup line (if opens then none else some i) with
  | .conflict => s.holdOr (.line line) .conflict
  | .full => s.holdOr .claimSpace .claimTableFull
  | .owned logged =>
    let span := neededSpan mask logged
    if s.reserveHolds span then .journal ⟨i, opens, false, span⟩ else s.holdOr .logSpace .logFull
  | .unclaimed =>
    let span := neededSpan mask 0
    if s.reserveHolds span then .journal ⟨i, opens, true, span⟩ else s.holdOr .logSpace .logFull

/-- Steps 4 to 7 of R60 for a write with a group number. -/
def State.groupVerdict (s : State) (older : List Hold) (k : Key) (line : Nat) (mask : BitVec 64) : Verdict :=
  match s.groupLookup k with
  | .closing => .refuse .groupClosing
  | .damaged => .refuse .damaged
  | .join i => orderedOr older k.source line (s.lineVerdict line mask i false)
  | .opens i => orderedOr older k.source line (s.lineVerdict line mask i true)
  | .full => orderedOr older k.source line (s.holdOr .groupSlot .groupTableFull)

/-- Steps 3 to 6 of R60 for an ungrouped write to a JOURNALED region (R36). -/
def State.ungroupedVerdict (s : State) (older : List Hold) (u : Ungrouped) (source : Source) (line : Nat) : Verdict :=
  match u with
  | .refuse => .refuse .noGroup
  | .passUnlogged =>
    orderedOr older source line (if (s.claimOf line).isSome then s.holdOr (.line line) .conflict else .pass)

/-- Decides a WRITE from step 2 on (R34, R35, R36, R60). `older` are the held requests that count as earlier; in RUNNING a
WRITE to a PASS line meets them too (R39, log 12). -/
def State.writeVerdict (s : State) (older : List Hold) (source : Source) (line : Nat) (mask : BitVec 64)
    (group : GroupNo) : Verdict :=
  match s.bridge with
  | .gated | .recovering => .refuse .gated
  | .draining | .halted => .refuse .halted
  | .faulted =>
    match s.classify (lineAddr line) with
    | .pass => .pass
    | .readOnly | .log => .refuse .roRegion
    | .journaled _ => .refuse .faulted
  | .running =>
    match s.classify (lineAddr line) with
    | .readOnly | .log => .refuse .roRegion
    | .pass => orderedOr older source line .pass
    | .journaled u =>
      if group = 0 then s.ungroupedVerdict older u source line
      else s.groupVerdict older ⟨source, group⟩ line mask

/-- Decides a READ (R34, R35, R37, R39, R56). -/
def State.readVerdict (s : State) (older : List Hold) (source : Source) (addr : Nat) : Verdict :=
  match s.bridge with
  | .gated | .faulted => .pass
  | .recovering => if (s.classify addr).isJournaled then .refuse .recovering else .pass
  | .draining | .halted => if s.lineRollingBack (lineOf addr) then .refuse .halted else .pass
  | .running =>
    orderedOr older source (lineOf addr)
      (if (s.classify addr).isJournaled && s.lineRollingBack (lineOf addr) then .hold (.rollbackRead (lineOf addr))
        else .pass)

/-! ### Room (R27, R62) -/

/-- The places of the append window a span's records need (R62). -/
def State.placesFor (s : State) (count : Nat) : Nat :=
  if padSlots s.geo s.log.head (beforeSlots count) = 0 then 1 else 2

/-- The in-flight table has a free entry (R27). -/
def State.inflightRoom (s : State) : Bool := decide (s.host.inflight.length < Config.inflightDepth)

/-- What an admissible request is short of: an in-flight entry first, then window places (R62, log 14). -/
def State.shortage (s : State) (v : Verdict) : Option Room :=
  match v with
  | .refuse _ | .hold _ => none
  | .pass => if s.inflightRoom then none else some .inFlight
  | .journal p =>
    if s.inflightRoom then
      match p.span with
      | some (_, count) => if s.placesFor count ≤ s.admissionPlaces then none else some .window
      | none => none
    else some .inFlight

/-- There is no pause, or the table that was short has freed room since it began: the front request may be decided (again)
(R27, R62). -/
def State.pauseOver (s : State) : Bool :=
  match s.host.paused with
  | none => true
  | some p => p.freed

/-! ### Admission (R37, R38, R63) -/

/-- Makes an in-flight entry at the back of the table (R27, R64). -/
def State.enterFlight (s : State) (e : Inflight) : State :=
  { s with host := { s.host with inflight := s.host.inflight ++ [e] } }

/-- Admits a READ that passes to memory (R37). -/
def State.admitPassRead (s : State) (source : Source) (tag : ReqTag) (addr len : Nat) : State :=
  (s.enterFlight ⟨source, tag, .passRead addr len, .queued⟩).handOver ⟨.passRead source tag, false, addr, len, 0, []⟩

/-- Admits a WRITE that passes to memory (R38). -/
def State.admitPassWrite (s : State) (source : Source) (tag : ReqTag) (line : Nat) (mask : BitVec 64)
    (data : List Byte) : State :=
  (s.enterFlight ⟨source, tag, .passWrite line mask data, .queued⟩).handOver
    ⟨.passWrite source tag, true, lineAddr line, Config.lineBytes, mask.setWidth 96, data⟩

/-- The idle deadline a start or restart gives: the idle limit in µs, none for 0 (R47). -/
def State.idleStart (s : State) : Option Nat :=
  if s.link.policy.idleLimit = 0 then none else some (s.link.policy.idleLimit * 1000)

/-- The group part of admission: the group opens when it is new, its in-flight count rises, its idle deadline restarts
(R45, R46, R47). -/
def State.joinGroup (s : State) (k : Key) (p : Plan) : State :=
  s.updSlot p.slot fun g =>
    if p.opens then { GroupSlot.free with state := .opened, key := k, inflight := 1, idle := s.idleStart }
    else { g with inflight := g.inflight + 1, idle := s.idleStart }

/-- The claim part of admission: an entry with an empty logged mask (R51). -/
def State.makeClaim (s : State) (line : Nat) (p : Plan) : State :=
  if p.claims then
    let t : State := { s with grp := { s.grp with claims := s.grp.claims ++ [(⟨line, p.slot, 0⟩ : Claim)] } }
    t.updSlot p.slot fun g => { g with claims := g.claims + 1 }
  else s

/-- Admits a journaled write: group, claim, records and in-flight entry in one step (R63). A write with a record goes
to BI_READ with its before-image read handed over and may begin the clean barrier (R13, R22), whose anchor joins the LOG
queue behind that read (log 40); one without goes to FRONTIER_WAIT (R69). -/
def State.admitJournaled (s : State) (source : Source) (tag : ReqTag) (line : Nat) (mask : BitVec 64)
    (data : List Byte) (group : GroupNo) (p : Plan) : State :=
  let t := (s.joinGroup ⟨source, group⟩ p).makeClaim line p
  match p.span with
  | none => (t.enterFlight ⟨source, tag, .journaled line mask data p.slot none, .frontierWait⟩).promote
  | some (first, count) =>
    let u := t.allocatePad (padSlots t.geo t.log.head (beforeSlots count))
    let pos := u.log.head
    let v := (u.allocateBefore p.slot line first count).recomputeTail
    ((v.enterFlight ⟨source, tag, .journaled line mask data p.slot (some ⟨pos, first, count⟩), .biRead⟩).handOver
      ⟨.biRead pos, false, lineAddr line + first, count, 0, []⟩).barrierTrigger

/-- Admits a READ or WRITE by its verdict. -/
def State.admitRequest (s : State) (r : Request) (v : Verdict) : State :=
  match r.body, v with
  | .read addr len, .pass => s.admitPassRead r.source r.tag addr.toNat len
  | .write line mask data _, .pass => s.admitPassWrite r.source r.tag line.toNat mask data
  | .write line mask data group, .journal p => s.admitJournaled r.source r.tag line.toNat mask data group p
  | _, _ => s

/-! ### Marks (R90 to R92) -/

/-- The outcome of a MARK in RUNNING. -/
inductive MarkVerdict where
  | refuse (r : Reason)
  /-- answered FAILED with BROKEN at once -/
  | broken
  /-- joins the slot as its waiter -/
  | join (i : SlotNo)
  /-- the slot leaves OPEN with the mark as waiter -/
  | close (i : SlotNo) (st : SlotState) (cause : Cause)
  deriving DecidableEq, Repr

/-- Decides a COMMIT (R91). -/
def State.commitVerdict (s : State) (k : Key) : MarkVerdict :=
  match s.findSlot k with
  | none => .refuse .notOpen
  | some i =>
    match (s.slot i).state with
    | .opened => if (s.slot i).damaged then .close i .rollbackWait .damaged else .close i .committing .mark
    | .committing => if (s.slot i).waiter.isNone then .join i else .refuse .groupClosing
    | .rollbackWait | .rollingBack | .broken => .refuse .tooLate
    | .free => .refuse .notOpen

/-- Decides an ABANDON (R92). -/
def State.abandonVerdict (s : State) (k : Key) : MarkVerdict :=
  match s.findSlot k with
  | none => .refuse .notOpen
  | some i =>
    match (s.slot i).state with
    | .opened => .close i .rollbackWait .abandon
    | .committing => .refuse .tooLate
    | .rollbackWait | .rollingBack => if (s.slot i).waiter.isNone then .join i else .refuse .groupClosing
    | .broken => .broken
    | .free => .refuse .notOpen

/-- Decides a MARK by the bridge state (R34, R35, R90). -/
def State.markVerdict (s : State) (source : Source) (group : GroupNo) (kind : MarkKind) : MarkVerdict :=
  match s.bridge with
  | .gated | .recovering => .refuse .gated
  | .draining | .halted => .refuse .halted
  | .faulted => .refuse .faulted
  | .running =>
    match kind with
    | .commit => s.commitVerdict ⟨source, group⟩
    | .abandon => s.abandonVerdict ⟨source, group⟩
    | .other => .refuse .malformed

/-- Admits a MARK by its verdict: it takes an in-flight entry (R90). -/
def State.admitMark (s : State) (source : Source) (tag : ReqTag) (group : GroupNo) (kind : MarkKind)
    (v : MarkVerdict) : State :=
  let t := s.enterFlight ⟨source, tag, .mark group kind, .waiting⟩
  match v with
  | .refuse _ => s
  | .broken => t.answerAdmitted source tag (.failed .broken)
  | .join i => t.updSlot i fun g => { g with waiter := some ⟨source, tag, kind⟩ }
  | .close i st cause => t.enterClosing i st cause (some ⟨source, tag, kind⟩)

/-! ### The front of the intake (R26 to R29, R62, R78) -/

/-- A malformed request (R29). -/
def malformed (r : Request) : Bool :=
  match r.body with
  | .read addr len => decide (len = 0) || decide (64 < addr.toNat % 64 + len)
  | .write _ mask _ _ => decide (mask = 0)
  | .mark group kind => decide (group = 0) || decide (kind = .other)

/-- A request of this source and tag is present: taken, and its response not yet sent (R25, R28, log 10). -/
def State.isPresent (s : State) (source : Source) (tag : ReqTag) : Bool :=
  (s.host.intake.any fun q => decide (q.req.source = source) && decide (q.req.tag = tag)) ||
  (s.host.holds.any fun h => decide (h.req.source = source) && decide (h.req.tag = tag)) ||
  (s.host.inflight.any fun e => decide (e.source = source) && decide (e.tag = tag)) ||
  (s.host.responses.any fun r => decide (r.source = source) && decide (r.tag = tag))

/-- The front request leaves the intake (R26). -/
def State.takeFront (s : State) : State :=
  { s with host := { s.host with intake := s.host.intake.tail, paused := none } }

/-- The admission unit pauses with the front request for want of room (R27, R62). -/
def State.pauseFor (s : State) (r : Room) : State := { s with host := { s.host with paused := some ⟨r, false⟩ } }

/-- A hold falls due: the request joins the list, or is refused when it holds 8 entries (R78, R79). -/
def State.placeHold (s : State) (r : Request) (why : HoldReason) : State :=
  if s.host.holds.length < Config.holdDepth then
    s.setHolds (s.host.holds ++ [⟨r, why, s.now + s.link.policy.holdLimit * 10, none, false⟩])
  else s.refuse r .holdListFull

/-- Carries out the verdict on the READ or WRITE at the front of the intake (R27). -/
def State.settleFront (s : State) (r : Request) (v : Verdict) : State :=
  match s.shortage v with
  | some room => s.pauseFor room
  | none =>
    match v with
    | .refuse why => s.takeFront.refuse r why
    | .hold why => s.takeFront.placeHold r why
    | .pass | .journal _ => s.takeFront.admitRequest r v

/-- Carries out the verdict on the MARK at the front of the intake (R27, R90). -/
def State.settleMark (s : State) (r : Request) (group : GroupNo) (kind : MarkKind) (v : MarkVerdict) : State :=
  match v with
  | .refuse why => s.takeFront.refuse r why
  | .broken | .join _ | .close _ _ _ =>
    if s.inflightRoom then s.takeFront.admitMark r.source r.tag group kind v else s.pauseFor .inFlight

/-- Decides the request at the front of the intake from the first check (R27, R29, R60). -/
def State.decideFront (s : State) : State :=
  match s.host.intake with
  | [] => s
  | q :: _ =>
    if q.dup || malformed q.req then s.takeFront.refuse q.req .malformed
    else match q.req.body with
      | .read addr _ => s.settleFront q.req (s.readVerdict s.host.holds q.req.source addr.toNat)
      | .write line mask _ group =>
        s.settleFront q.req (s.writeVerdict s.host.holds q.req.source line.toNat mask group)
      | .mark group kind => s.settleMark q.req group kind (s.markVerdict q.req.source group kind)

/-- The pause, if any, ends and its request is decided again in the new bridge state (R62, R123, R145). -/
def State.redecidePaused (s : State) : State :=
  if s.host.paused.isSome then s.decideFront else s

/-- The admission unit takes the front request when it satisfies `p`, no held entry is marked, and no pause lasts: it is
then decided from the first check, and may pause again (R27, R62, R82). -/
def State.takeNext (s : State) (p : ReqBody → Bool) : State :=
  match s.host.intake with
  | [] => s
  | q :: _ => if p q.req.body && !s.holdsMarked && s.pauseOver then s.decideFront else s

/-! ### Re-evaluation (R82 to R84) -/

/-- The verdict on a held request; only older entries count as earlier (R82). -/
def State.heldVerdict (s : State) (older : List Hold) (r : Request) : Verdict :=
  match r.body with
  | .read addr _ => s.readVerdict older r.source addr.toNat
  | .write line mask _ group => s.writeVerdict older r.source line.toNat mask group
  | .mark _ _ => .refuse .malformed

/-- Re-evaluates the entry `h` that stands between `older` and `younger` (R82). -/
def State.reevaluate (s : State) (older : List Hold) (h : Hold) (younger : List Hold) : State :=
  let v := s.heldVerdict older h.req
  let gone := (s.setHolds (older ++ younger)).wakeOrder h.req.source h.req.tag
  match s.shortage v with
  | some room => s.setHolds (older ++ { h with marked := false, room := some room } :: younger)
  | none =>
    match v with
    | .refuse why => gone.refuse h.req why
    | .hold why => s.setHolds (older ++ { h with marked := false, room := none, reason := why } :: younger)
    | .pass | .journal _ => gone.admitRequest h.req v

/-- Re-evaluates the oldest marked entry, if any. -/
def State.reevaluateOldest (s : State) : State :=
  match s.host.holds.dropWhile fun h => !h.marked with
  | [] => s
  | h :: younger => s.reevaluate (s.host.holds.takeWhile fun h => !h.marked) h younger

/-- Up to `n` re-evaluations, each of the oldest marked entry. Each either takes an entry from the list or clears a mark
and sets none, so with `l` entries l (l + 2) of them leave none marked (R82). -/
def State.reevaluatePass (s : State) : Nat → State
  | 0 => s
  | n + 1 => s.reevaluateOldest.reevaluatePass n

end Sys2Proof.Machine
end

