-- ==== Sys2Proof/Machine/Bridge.lean ====
section
/-! DEFINITION. Bridge: the changes of the bridge state: drain entry, the entry to RUNNING, HALTED and FAULTED, and the
ends of a START (chapters 8 and 9). -/

namespace Sys2Proof.Machine

/-! ### DRAINING, RUNNING and HALTED -/

/-- The bridge leaves RUNNING for DRAINING: the hold list is refused with HALTED, the paused front request is decided
again after it (log 47), a noted follow-up is dropped (R87, R123). Idle deadlines freeze because they run in RUNNING
only, and the walk stops at its next record boundary because the bridge is DRAINING (R125). -/
def State.enterDraining (s : State) : State :=
  let t : State := { s with bridge := .draining, log := { s.log with followUp := false } }
  (t.emptyHolds .halted).redecidePaused

/-- The bridge enters RUNNING; with PFW asserted a drain begins at once (R123). -/
def State.enterRunning (s : State) : State :=
  let t : State := { s with bridge := .running }
  if t.pfwAsserted then t.enterDraining else t

/-- Starts the resume-delay timer (R130). -/
def State.startResume (s : State) : State :=
  { s with resumeAt := some (s.now + s.link.policy.resumeDelay * 1000) }

/-- Starts the resume-delay timer where the policy is AUTO and PFW is deasserted (R130). -/
def State.resumeIfAuto (s : State) : State :=
  if s.link.policy.resumePolicy = .auto ∧ s.pfwAsserted = false then s.startResume else s

/-- The bridge enters HALTED (R128, R130). -/
def State.enterHalted (s : State) : State :=
  let t : State := { s with bridge := .halted }
  t.resumeIfAuto

/-! ### FAULTED (R75, R88, R108, R145) -/

/-- The request serves a write or walk that the fault entry cuts off (R145): before-image READs, data WRITEs and walk READs.
An anchor WRITE that is handed over and not issued, a retry's included, is not withdrawn and goes on to be granted in
FAULTED; R23, R121 and R146 do not settle it (DESIGN CHOICE, log 49). Nor is a walk READ still queued from a recovery that
has ended, which has no requester any more (`Ref.dropped`): it is granted in FAULTED, though R145 names every walk READ not
yet issued (DESIGN CHOICE, log 54). -/
def Ref.cutByFault : Ref → Bool
  | .biRead _ | .dataWrite _ _ | .walkRead _ => true
  | .recordWrite _ _ | .anchorWrite | .restore | .scanRead | .anchorRead _ | .passRead _ _ | .passWrite _ _
  | .dropped | .preReset => false

/-- The data phase of a journaled write at this stage has not begun, and it is not answered (R75). -/
def Stage.beforeData : Stage → Bool
  | .biRead | .recWrite | .frontierWait | .dataQueued => true
  | .queued | .issued | .dataIssued | .waiting | .done => false

/-- Answers a journaled write whose data phase has not begun FAILED with FAULTED (R75). -/
def State.answerFaulted (s : State) (e : Inflight) : State :=
  match e.work with
  | .journaled _ _ _ i _ => if e.stage.beforeData then s.answerWrite e.source e.tag i (.failed .faulted) else s
  | .passRead _ _ | .passWrite _ _ _ | .mark _ _ => s

/-- Stops and clears every idle deadline (R47). -/
def State.clearIdle (s : State) : State :=
  { s with grp := { s.grp with slots := s.grp.slots.map fun g => { g with idle := none } } }

/-- Drops a noted follow-up and a waiting anchor retry (R23, R144, R145). A retry whose 1 ms has passed waits no more: its
write has been handed over, and it stays (DESIGN CHOICE, log 49). -/
def State.dropRetry (s : State) : State :=
  { s with log := { s.log with
    followUp := false
    anchorOp := match s.log.anchorOp with | .retryWait _ _ _ => .idle | op => op } }

/-- The code of RELEASE_BROKEN (R152). -/
def releaseCode : Nat := 0x0D

/-- An executing RELEASE_BROKEN is answered MEM_ERROR (R107). -/
def State.failRelease (s : State) : State :=
  match s.link.state with
  | .executing c _ => if c = releaseCode then s.answerLink .memError [] else s
  | .idle => s

/-- The bridge enters FAULTED (R145): the tables, the queue, the positions and the walk are left as they stand. The order
of the responses decided here is the model's: held requests, the paused request, admitted writes in admission order,
waiters by slot number (log 29). An anchor write handed over, issued or not, stays and runs to its answer (DESIGN CHOICE,
log 49). -/
def State.enterFaulted (s : State) (d : Detail) (pos : Nat) : State :=
  let t : State := { s.post .logFaulted Key.zero d 0 pos with bridge := .faulted, start := none, resumeAt := none }
  let u := ((t.emptyHolds .faulted).redecidePaused).withdraw Ref.cutByFault
  let v := u.host.inflight.foldl State.answerFaulted u
  let w := allSlots.foldl (fun s i => s.answerWaiter i fun _ => .failed .faulted) v
  w.clearIdle.dropRetry.failRelease

/-! ### The ends of a START (R133, R137 to R139, R142) -/

/-- The request serves a START or a walk (R111). -/
def Ref.ofRollback : Ref → Bool
  | .walkRead _ | .restore | .scanRead | .anchorRead _ => true
  | .biRead _ | .recordWrite _ _ | .anchorWrite | .passRead _ _ | .passWrite _ _ | .dataWrite _ _ | .dropped
  | .preReset => false

/-- The rollback engine has no further use for its requests: they run to their answers, which it discards (R121, R133,
R136). -/
def State.forgetRollback (s : State) : State := s.disown Ref.ofRollback

/-- Recovery returns the bridge to GATED: what it built is discarded, the positions stay (R133, R138), and so do the
M-port's table and queues (R121). -/
def State.toGated (s : State) : State :=
  let t := s.forgetRollback
  { t with
    bridge := .gated
    start := none
    grp := GroupSide.reset
    log := { t.log with window := [], due := [], anchorOp := .idle, followUp := false } }

/-- RECOVERY_FAILED is posted and the bridge returns to GATED (R133, R138, R139, R142). -/
def State.failRecovery (s : State) (d : Detail) (pos : Nat) : State :=
  (s.post .recoveryFailed Key.zero d 0 pos).toGated

/-- Recovery ends in FAULTED: RECOVERY_FAILED, then LOG_FAULTED (R143). -/
def State.faultRecovery (s : State) (d : Detail) (pos : Nat) : State :=
  (s.post .recoveryFailed Key.zero d 0 pos).enterFaulted .recovery pos

/-- START FRESH ends with MEM_ERROR; the bridge stays GATED (R137). -/
def State.failFresh (s : State) : State :=
  let t := s.forgetRollback
  let u : State := { t with start := none, log := { t.log with anchorOp := .idle } }
  u.answerLink .memError []

/-- A recovery stop by PFW is pending (R133). -/
def State.stopping (s : State) : Bool :=
  match s.start with
  | some o => o.stopping
  | none => false

/-- The answer to this request is awaited at the stop point: an anchor or scan READ, a restore, or the READ of the
record at the walk position; a read-ahead is not (R133, log 18). -/
def State.awaited (s : State) : Ref → Bool
  | .restore | .scanRead | .anchorRead _ => true
  | .walkRead p =>
    match s.grp.walk with
    | some w => decide (w.phase = .reading) && decide (w.pos = p)
    | none => false
  | .biRead _ | .recordWrite _ _ | .anchorWrite | .passRead _ _ | .passWrite _ _ | .dataWrite _ _ | .dropped
  | .preReset => false

/-- A restore is handed over and not issued: the record it restores is not finished (R102, R108, R133, log 18). -/
def State.restoreQueued (s : State) : Bool := s.mport.rollbackQ.any fun q => decide (q.ref = .restore)

/-- A pending recovery stop that has reached its stop point returns the bridge to GATED (R133). -/
def State.stopCheck (s : State) : State :=
  if s.bridge = .recovering ∧ s.stopping ∧ s.log.window = [] ∧ s.outstanding s.awaited = false ∧
      s.restoreQueued = false then
    s.failRecovery .power 0
  else s

/-- The final recovery anchor has been issued (R133). -/
def State.finalIssued (s : State) : Bool :=
  decide (s.anchorUse = some .recovery) && s.outstanding fun r => decide (r = .anchorWrite)

/-- PFW is asserted while RECOVERING: recovery is to stop, unless its final anchor has been issued. What is due is not
begun, and a final anchor that is not issued is withdrawn, because no anchor is written (R133). The rollback engine's
requests stay as they stand, in their queue too (R121, log 18). -/
def State.stopRecovery (s : State) : State :=
  if s.finalIssued then s
  else
    let t := s.withdraw fun r => decide (r = .anchorWrite)
    let u : State := { t with
      start := t.start.map fun o => { o with stopping := true }
      log := { t.log with due := [], anchorOp := .idle } }
    u.stopCheck

end Sys2Proof.Machine
end

