-- ==== Sys2Proof/Machine/Rollback.lean ====
section
/-! DEFINITION. Rollback: the backward walk, its failure, its suspension at a drain and its resumption (chapters 6
and 8). -/

namespace Sys2Proof.Machine

/-- Replaces what the rollback engine holds. -/
def State.setWalk (s : State) (w : Option Walk) : State := { s with grp := { s.grp with walk := w } }

/-- Hands over the READ of the record at a walk position (R100). -/
def State.handWalkRead (s : State) (pos : Nat) : State :=
  s.handOver ⟨.walkRead pos, false, s.geo.slotAddr pos, s.geo.readLen pos, 0, []⟩

/-- Hands over the restore of a BEFORE: bytes first to first + count − 1 of its line take the payload (R101). -/
def State.handRestore (s : State) (h : RawHeader) (bytes : List Byte) : State :=
  s.handOver ⟨.restore, true, lineAddr h.line, Config.lineBytes, spanMask 96 h.first h.count,
    List.replicate h.first 0 ++ h.payload bytes⟩

/-- The idle engine takes the slot at the front of the rollback queue, in RUNNING or RECOVERING (R99); in a recovery that is
to stop it takes none (R133, log 18). -/
def State.takeSlot (s : State) : State :=
  if s.grp.walk = none ∧ (s.bridge = .running ∨ (s.bridge = .recovering ∧ s.stopping = false)) then
    match s.grp.queue with
    | [] => s
    | i :: rest =>
      let t : State := { s with grp := { s.grp with queue := rest, walk := some ⟨i, (s.slot i).newest, .reading, .none⟩ } }
      (t.updSlot i fun g => { g with state := .rollingBack }).handWalkRead (s.slot i).newest
  else s

/-- The tests of R100 on the bytes read at a walk position, in their order: the failure detail, or none when all pass. -/
def State.walkTest (s : State) (w : Walk) (bytes : List Byte) : Option Detail :=
  let h := RawHeader.parse bytes
  let g := s.slot w.slot
  if h.checkPasses bytes = false then some .check
  else if h.kind ≠ RecKind.before.code ∧ h.kind ≠ RecKind.void.code then some .mismatch
  else if Key.ofByte h.keyByte ≠ g.key then some .mismatch
  else if h.pos ≠ w.pos % 2 ^ 64 then some .mismatch
  else if h.gen ≠ s.log.gen then some .mismatch
  else if h.spanFits = false then some .mismatch
  else if w.pos = g.first then (if h.back = 0 then none else some .mismatch)
  else if h.back ≠ 0 ∧ g.first + h.back ≤ w.pos then none else some .mismatch

/-- A walk fails at a position (R105): the slot is BROKEN, its waiter answered FAILED with BROKEN, GROUP_BROKEN posted,
the reads held for its lines woken; the engine is idle once its outstanding requests are answered. In RECOVERING the
bridge then enters FAULTED (R143). DESIGN CHOICE (log 51): R105 issues no further restore for the walk, and says too that
every record walked before was restored in full; a restore handed over and not issued, such as one that a fence holds
(R118) while its read-ahead READ fails, is withdrawn, and so is a queued READ of the walk. -/
def State.walkFail (s : State) (w : Walk) (pos : Nat) (d : Detail) : State :=
  let g := s.slot w.slot
  let t := ((s.updSlot w.slot fun g => { g with state := .broken }).answerWaiter w.slot fun _ => .failed .broken)
  let u := ((t.postClose .groupBroken g d pos).wakeReads (s.claimedLines w.slot)).withdraw Ref.ofRollback
  let v := u.setWalk (if u.outstanding Ref.ofRollback then some { w with phase := .ending, ahead := .none } else none)
  if s.bridge = .recovering then v.faultRecovery d pos else v

/-- A walk is complete: its ROLLBACK record with outcome RESTORED is due and the engine is idle (R103). -/
def State.walkComplete (s : State) (i : SlotNo) : State := (s.setWalk none).requestClosing i .restored

/-- The walk goes to a record whose READ has not been handed over: it stops there in DRAINING, and reads it otherwise
(R102, R125). -/
def State.walkTo (s : State) (w : Walk) (pos : Nat) : State :=
  if s.bridge = .draining then s.setWalk (some ⟨w.slot, pos, .suspended, .none⟩)
  else (s.setWalk (some ⟨w.slot, pos, .reading, .none⟩)).handWalkRead pos

/-- Tests the record at the walk position, then restores it, passes it over, or fails (R100 to R102). With the restore
of a record that is not the group's first, the READ of the next record is handed over (R101), but not in DRAINING
(R125). -/
def State.considerRecord (s : State) (w : Walk) (bytes : List Byte) : State :=
  match s.walkTest w bytes with
  | some d => s.walkFail w w.pos d
  | none =>
    let h := RawHeader.parse bytes
    if h.kind = RecKind.void.code then
      if h.back = 0 then s.walkComplete w.slot else s.walkTo w (w.pos - h.back)
    else
      let t := s.handRestore h bytes
      if h.back = 0 ∨ s.bridge = .draining then
        t.setWalk (some ⟨w.slot, w.pos, .restoring h.back, .none⟩)
      else (t.setWalk (some ⟨w.slot, w.pos, .restoring h.back, .pending⟩)).handWalkRead (w.pos - h.back)

/-- A failed walk's engine is idle once the last of its outstanding requests is answered (R105). -/
def State.endWalk (s : State) : State := if s.outstanding Ref.ofRollback then s else s.setWalk none

/-- A walk READ is answered DONE (R100, R101, R108, R125, R133). -/
def State.walkReadDone (s : State) (bytes : List Byte) : State :=
  match s.grp.walk with
  | none => s
  | some w =>
    match w.phase with
    | .ending => s.endWalk
    | .reading =>
      if s.bridge = .faulted then s else if s.stopping then s.stopCheck else s.considerRecord w bytes
    | .restoring _ | .suspended =>
      if s.bridge = .faulted ∨ s.stopping then s else s.setWalk (some { w with ahead := .kept bytes })

/-- A walk READ of the record at `pos` fails (R100, R105, R108, R125, R133). -/
def State.walkReadFailed (s : State) (pos : Nat) : State :=
  match s.grp.walk with
  | none => s
  | some w =>
    match w.phase with
    | .ending => s.endWalk
    | .reading => if s.bridge = .faulted then s else s.walkFail w w.pos .memError
    | .restoring _ => if s.bridge = .faulted ∨ s.stopping then s else s.walkFail w pos .memError
    | .suspended => if s.bridge = .faulted then s else s.setWalk (some { w with ahead := .keptError })

/-- The walk takes up the record at `pos`, of which the read-ahead may already have been answered (R101, R132). -/
def State.takeUp (s : State) (w : Walk) (pos : Nat) : State :=
  let w' : Walk := ⟨w.slot, pos, .reading, .none⟩
  match w.ahead with
  | .none => (s.setWalk (some w')).handWalkRead pos
  | .pending => s.setWalk (some w')
  | .kept bytes => s.considerRecord w' bytes
  | .keptError => s.walkFail w' pos .memError

/-- A restore is answered DONE (R101, R102, R108, R125, R133). -/
def State.restoreDone (s : State) : State :=
  match s.grp.walk with
  | none => s
  | some w =>
    match w.phase with
    | .ending => s.endWalk
    | .restoring back =>
      if s.bridge = .faulted then s
      else if s.stopping then s.stopCheck
      else if back = 0 then s.walkComplete w.slot
      else if s.bridge = .draining then s.setWalk (some { w with pos := w.pos - back, phase := .suspended })
      else s.takeUp w (w.pos - back)
    | .reading | .suspended => s

/-- A restore fails (R101, R105, R108). -/
def State.restoreFailed (s : State) : State :=
  match s.grp.walk with
  | none => s
  | some w =>
    match w.phase with
    | .ending => s.endWalk
    | .restoring _ => s.walkFail w w.pos .memError
    | .reading | .suspended => s

/-- A suspended walk resumes at its walk position (R132). -/
def State.resumeWalk (s : State) : State :=
  match s.grp.walk with
  | none => s
  | some w => if w.phase = .suspended then s.takeUp w w.pos else s

/-- The bridge returns from HALTED to RUNNING (R132); RESUMED is posted before what a kept read-ahead may post (log 46). -/
def State.returnToRunning (s : State) (p : ResumePolicy) : State :=
  let t : State := { s with bridge := .running, resumeAt := none }
  (t.post .resumed Key.zero (.resume p) t.slotsInUse t.log.head).resumeWalk

end Sys2Proof.Machine
end

