-- ==== Sys2Proof/Machine/Recovery.lean ====
section
/-! DEFINITION. Recovery: START: the anchor reads, START FRESH's anchors, the recovery scan, the rebuild and the final
anchor (chapter 9). -/

namespace Sys2Proof.Machine

/-! ### START taken (R135, R136) -/

/-- START empties every table of the old run (R135). -/
def State.startClear (s : State) : State :=
  { s with grp := GroupSide.reset, host := { s.host with holds := [] }, log := LogSide.reset s.log.geometry }

/-- Hands over the READ of an anchor copy (R136). -/
def State.readAnchor (s : State) (c : Copy) : State :=
  s.handOver ⟨.anchorRead c, false, s.geo.anchorAddr c, 64, 0, []⟩

/-- A START that has just begun to read the anchors. -/
def StartOp.begin (m : StartMode) : StartOp := ⟨m, .anchors, .pending, .pending, 0, 0, 0, 0, 0, false⟩

/-- A START is taken in this bridge state: the tables are emptied, with the engine's interest in requests of the old run
(R135, R136). -/
def State.openStart (s : State) (m : StartMode) (b : Bridge) : State :=
  { s.startClear.forgetRollback with bridge := b, start := some (StartOp.begin m) }

/-- Both anchor READs are handed over (R136). DESIGN CHOICE (log 52): A's READ joins the ROLLBACK queue before B's; R111
and R136 give no order. -/
def State.readAnchors (s : State) : State := (s.readAnchor .a).readAnchor .b

/-- START in FAULTED is BUSY: the in-flight table holds a WRITE, or an M-port request is OUTSTANDING or waits (R135). -/
def State.startBusy (s : State) : Bool :=
  decide (s.bridge = .faulted) &&
    ((s.host.inflight.any fun e => e.work.isWrite) || s.outstanding (fun _ => true) ||
      !(s.mport.logQ.isEmpty && s.mport.rollbackQ.isEmpty && s.mport.trafficQ.isEmpty))

/-- The state checks of START, lock apart: the answer of the first that fails (R135). -/
def State.startRefusal (s : State) : Option Status :=
  if s.log.geometry = none then some .state
  else if s.bridge ≠ .gated ∧ s.bridge ≠ .faulted then some .state
  else if s.startBusy then some .busy
  else none

/-! ### The anchors read (R136 to R138) -/

/-- The chosen anchor: the valid copy, or of two the one with the higher serial, A when they are equal (R136). -/
def chooseAnchor : CopyRead → CopyRead → Option (Copy × Anchor)
  | .valid a, .valid b => if a.serial < b.serial then some (.b, b) else some (.a, a)
  | .valid a, _ => some (.a, a)
  | _, .valid b => some (.b, b)
  | _, _ => none

/-- The generation of a copy, 0 when it is not valid. -/
def CopyRead.gen : CopyRead → Nat
  | .valid a => a.gen
  | .pending | .invalid => 0

/-- The generation after `g`: 4,294,967,295 gives 1 (R137, R142). -/
def nextGen (g : Nat) : Nat := if 2 ^ 32 ≤ g + 1 then 1 else g + 1

/-- START FRESH writes its first copy: the one that does not hold the chosen anchor, or B (R137). -/
def State.freshBegin (s : State) (o : StartOp) : State :=
  let top := max o.copyA.gen o.copyB.gen
  let c := match chooseAnchor o.copyA o.copyB with
    | some (c, _) => c.other
    | none => .b
  let t : State := { s with start := some { o with phase := .freshWrites, topGen := top } }
  t.writeAnchor c ⟨1, nextGen top, .clean, s.geo.exponent, 0⟩ .freshFirst

/-- Hands over the scan READ at a scan position (R139). -/
def State.readScan (s : State) (p : Nat) : State :=
  s.handOver ⟨.scanRead, false, s.geo.slotAddr p, s.geo.readLen p, 0, []⟩

/-- START RECOVER judges the chosen anchor (R138). DEDUCED (log 17): taking it as the newest durable anchor brings free
slots from 0, which they read without one, to N, and no LOG_LOW comparison is made, because R138 reads the anchor back and
none is written; R24 compares each time an anchor raises free slots. -/
def State.recoverJudge (s : State) (o : StartOp) : State :=
  match chooseAnchor o.copyA o.copyB with
  | none => s.failRecovery .noAnchor 0
  | some (c, a) =>
    if a.exponent ≠ s.geo.exponent then s.failRecovery .geometry 0
    else
      let o' : StartOp := { o with
        phase := if a.state = .clean then .rollback else .scan
        topGen := max o.copyA.gen o.copyB.gen
        tail := a.tail
        scanPos := a.tail }
      let t : State := { s with
        start := some o'
        log := { s.log with
          head := a.tail, persistedTail := a.tail, gen := a.gen, newest := some ⟨c, a.serial, a.state, a.tail⟩ } }
      let u := t.recomputeTail
      if a.state = .clean then u else u.readScan a.tail

/-- Notes what an anchor READ returned (R136). -/
def StartOp.note (o : StartOp) (c : Copy) (r : CopyRead) : StartOp :=
  match c with
  | .a => { o with copyA := r }
  | .b => { o with copyB := r }

/-- What an anchor copy's 64 bytes amount to (R19, R136). -/
def CopyRead.ofBytes (bs : List Byte) : CopyRead :=
  match Anchor.parse bs with
  | some a => .valid a
  | none => .invalid

/-- An anchor READ is answered DONE; the mode's next step follows when both are (R136 to R138), unless recovery is to
stop (R133). -/
def State.anchorReadDone (s : State) (c : Copy) (bytes : List Byte) : State :=
  match s.start with
  | none => s
  | some o =>
    if o.stopping then s.stopCheck
    else
      let o' := o.note c (CopyRead.ofBytes bytes)
      if o'.copyA = .pending ∨ o'.copyB = .pending then { s with start := some o' }
      else match o.mode with
        | .fresh => s.freshBegin o'
        | .recover => s.recoverJudge o'

/-- An anchor READ is a read failure (R136 to R138). -/
def State.anchorReadFailed (s : State) : State :=
  match s.start with
  | none => s
  | some o =>
    match o.mode with
    | .fresh => s.failFresh
    | .recover => s.failRecovery .memError 0

/-! ### START FRESH's copies (R137) -/

/-- The first copy is durable: the second, with serial 2, is written to the other copy (R137). -/
def State.freshSecond (s : State) (c : Copy) (a : Anchor) : State :=
  s.writeAnchor c.other { a with serial := 2 } .freshSecond

/-- The second copy is durable: the new log begins and the bridge is RUNNING (R137). DEDUCED (log 17): free slots, 0
without a newest anchor, become the whole ring here, and no LOG_LOW comparison is made: R137 sets the positions to 0, which
is not the rise by an anchor that R24 speaks of. -/
def State.freshDone (s : State) (c : Copy) (a : Anchor) : State :=
  let t : State := { s with
    start := none
    log := { s.log with
      head := 0, volatileTail := 0, persistedTail := 0, gen := a.gen, newest := some ⟨c, a.serial, a.state, a.tail⟩
      failures := 0, anchorOp := .idle } }
  (t.answerLink .ok []).enterRunning

/-- A copy of START FRESH fails (R137). -/
def State.freshFailed (s : State) (c : Copy) : State := (s.postAnchorError c).failFresh

/-! ### The scan and the rebuild (R139 to R141) -/

/-- The tests of R139 on the bytes read at scan position `p`. -/
def State.scanValid (s : State) (o : StartOp) (p : Nat) (bytes : List Byte) : Bool :=
  let h := RawHeader.parse bytes
  (if h.kind = RecKind.before.code ∨ h.kind = RecKind.void.code then h.spanFits
    else if h.kind = RecKind.commit.code ∨ h.kind = RecKind.rollback.code then decide (h.slots = 1)
    else if h.kind = RecKind.pad.code then decide (h.slots = s.geo.slotsLeft p)
    else false)
  && h.checkPasses bytes && decide (h.gen = s.log.gen) && decide (h.pos = p % 2 ^ 64)
  && decide (p + h.slots ≤ o.tail + s.geo.slots)

/-- The rebuild's effect of a BEFORE or VOID at position `p`; none for CORRUPT (R140). -/
def State.rebuildBefore (s : State) (o : StartOp) (k : Key) (p back : Nat) : Option State :=
  match s.findSlot k with
  | some i =>
    if p = (s.slot i).newest + back then
      some (s.updSlot i fun g => { g with newest := p, records := g.records + 1 })
    else none
  | none =>
    if back = 0 then
      match s.freeSlot with
      | some i => some (s.updSlot i fun _ =>
          { GroupSlot.free with state := .opened, key := k, first := p, newest := p, records := 1 })
      | none => none
    else if p < o.tail + back then some s
    else none

/-- The rebuild's effect of a COMMIT or ROLLBACK at position `p`; none for CORRUPT (R140). -/
def State.rebuildClose (s : State) (o : StartOp) (k : Key) (p back records : Nat) : Option State :=
  match s.findSlot k with
  | some i =>
    if p = (s.slot i).first + back ∧ records = min (s.slot i).records 65535 then
      some (s.updSlot i fun _ => GroupSlot.free)
    else none
  | none => if p < o.tail + back then some s else none

/-- The rebuild's effect of a valid record at position `p`; none for CORRUPT (R140). -/
def State.rebuild (s : State) (o : StartOp) (p : Nat) (h : RawHeader) : Option State :=
  if h.kind = RecKind.before.code ∨ h.kind = RecKind.void.code then s.rebuildBefore o (Key.ofByte h.keyByte) p h.back
  else if h.kind = RecKind.pad.code then some s
  else s.rebuildClose o (Key.ofByte h.keyByte) p h.back h.records

/-- The OPEN slots in order of their first positions, lowest first (R141). -/
def State.openSlots (s : State) : List SlotNo :=
  (allSlots.filter fun i => decide ((s.slot i).state = .opened)).insertionSort
    fun i j => (s.slot i).first ≤ (s.slot j).first

/-- An OPEN slot is to be rolled back by recovery and joins the queue (R141). -/
def State.recoverSlot (s : State) (i : SlotNo) : State :=
  (s.updSlot i fun g => { g with state := .rollbackWait, cause := some .recovery }).joinQueue i

/-- The scan ends at its scan position, which becomes the head (R139, R141). That is no allocation and no anchor, so R24's
LOG_LOW comparison is not made (DEDUCED, log 17). -/
def State.scanEnd (s : State) (o : StartOp) : State :=
  let t : State := { s with log := { s.log with head := o.scanPos } }
  let u := t.recomputeTail
  if u.freeSlots < u.openSlots.length then u.faultRecovery .corrupt o.scanPos
  else
    let v : State := { u with start := some { o with phase := .rollback, scanned := o.scanPos - o.tail } }
    v.openSlots.foldl State.recoverSlot v

/-- A scan READ is answered DONE: the record is tested and rebuilt, or the scan ends (R139 to R141), unless recovery
is to stop (R133). -/
def State.scanDone (s : State) (bytes : List Byte) : State :=
  match s.start with
  | none => s
  | some o =>
    if o.stopping then s.stopCheck
    else if s.scanValid o o.scanPos bytes then
      let h := RawHeader.parse bytes
      match s.rebuild o o.scanPos h with
      | none => s.faultRecovery .corrupt o.scanPos
      | some t =>
        let o' : StartOp := { o with scanPos := o.scanPos + h.slots }
        let u := ({ t with start := some o' } : State).recomputeTail
        if o'.tail + s.geo.slots ≤ o'.scanPos then u.scanEnd o' else u.readScan o'.scanPos
    else s.scanEnd o

/-- A scan READ fails (R139). -/
def State.scanFailed (s : State) : State :=
  match s.start with
  | none => s
  | some o => s.failRecovery .memError o.scanPos

/-! ### The final anchor (R142) -/

/-- No slot is left to roll back and every record is durable (R142, log 19). -/
def State.recoveryOver (s : State) (o : StartOp) : Bool :=
  decide (s.bridge = .recovering) && decide (o.phase = .rollback) && !o.stopping && decide (s.slotsInUse = 0)
    && s.grp.queue.isEmpty && decide (s.grp.walk = none) && s.log.window.isEmpty && s.log.due.isEmpty

/-- The final anchor: CLEAN, of a new generation, with the head as its tail (R142). -/
def State.finalAnchor (s : State) (o : StartOp) : State :=
  let t : State := { s with start := some { o with phase := .finalAnchor } }
  t.writeAnchor t.nextCopy (t.buildAnchor .clean t.log.head (nextGen o.topGen)) .recovery

/-- The final anchor is durable: a new generation begins, RECOVERY_DONE is posted and the bridge is RUNNING (R142). A
LOG_LOW of the anchor's adoption (R24) stands before RECOVERY_DONE (log 41). -/
def State.recovered (s : State) (c : Copy) (a : Anchor) : State :=
  let t := s.adoptAnchor c a
  let u : State := { t with start := none, log := { t.log with volatileTail := a.tail, gen := a.gen } }
  let o := s.start.getD (StartOp.begin .recover)
  (u.post .recoveryDone Key.zero .none o.rolledBack o.scanned).enterRunning

/-- The final anchor fails (R142). -/
def State.finalFailed (s : State) (c : Copy) : State := (s.postAnchorError c).failRecovery .memError 0

end Sys2Proof.Machine
end

