-- ==== Sys2Proof/Machine/Port.lean ====
section
/-! DEFINITION. Port: the M-port: readiness, credits, the arbiter and issue, and what memory and the table do at an
answer (chapter 7). -/

namespace Sys2Proof.Machine

/-! ### Readiness (R40, R112, R118) -/

/-- A RETIRED WRITE fences the span of this request (R112, R118). -/
def State.fenced (s : State) (q : MReq) : Bool :=
  allTags.any fun t => decide ((s.tag t).state = .retired) && (s.tag t).req.write && (s.tag t).req.overlaps q

/-- The in-flight entry owns the record at a position. -/
def Inflight.ownsRecord (pos : Nat) (e : Inflight) : Bool :=
  match e.work with
  | .journaled _ _ _ _ (some r) => decide (r.pos = pos)
  | _ => false

/-- The walk is stopped at a record boundary by a drain (R102, R125). -/
def State.walkStopped (s : State) : Bool :=
  match s.grp.walk with
  | some w => decide (w.phase = .suspended)
  | none => false

/-- A request in a class queue is ready to issue (R112). A stopped walk's READ is not issued before it resumes (R125, log
26). -/
def State.ready (s : State) (q : MReq) : Bool :=
  !s.fenced q &&
    match q.ref with
    | .biRead pos => s.readAfterWrite (s.admittedBefore (Inflight.ownsRecord pos)) (lineOf q.addr)
    | .walkRead pos => !s.walkStopped && s.log.window.all fun h => decide (h.pos ≠ pos)
    | .passRead source tag =>
      let before := s.admittedBefore fun e => e.isLive source tag
      lineOrder before source (lineOf q.addr) false && s.readAfterWrite before (lineOf q.addr)
    | .passWrite source tag =>
      lineOrder (s.admittedBefore fun e => e.isLive source tag) source (lineOf q.addr) true
    | .recordWrite _ _ | .anchorWrite | .restore | .scanRead | .anchorRead _ | .dataWrite _ _ | .dropped
    | .preReset => true

/-! ### Credits and the arbiter (R113 to R115, R120) -/

/-- The number of tags a class holds, OUTSTANDING or RETIRED (R114). -/
def State.held (s : State) (c : Cls) : Nat :=
  (allTags.filter fun t => decide ((s.tag t).state ≠ .free) && decide ((s.tag t).cls = c)).length

/-- The number of OUTSTANDING ROLLBACK tags (R114). -/
def State.rollbackOut (s : State) : Nat :=
  (allTags.filter fun t => decide ((s.tag t).state = .outstanding) && decide ((s.tag t).cls = .rollback)).length

/-- The lowest-numbered free tag (R113). -/
def State.freeTag (s : State) : Option MTag := allTags.find? fun t => decide ((s.tag t).state = .free)

/-- A class may take a free credit (R114). -/
def State.credit (s : State) (c : Cls) : Bool :=
  s.freeTag.isSome &&
    match c with
    | .log => true
    | .rollback => decide (s.held .rollback + s.held .traffic < Config.sharedTags)
        && decide (s.rollbackOut < Config.rollbackTags)
    | .traffic => decide (s.held .rollback + s.held .traffic < Config.sharedTags)

/-- The oldest ready request of a class (R115). -/
def State.oldestReady (s : State) (c : Cls) : Option MReq := (s.mport.queue c).find? s.ready

/-- A class is eligible for a grant (R114). -/
def State.eligible (s : State) (c : Cls) : Bool := s.credit c && (s.oldestReady c).isSome

/-- The classes in the rotation, beginning after the last class granted (R115). -/
def Cls.rotation : Cls → List Cls
  | .log => [.rollback, .traffic, .log]
  | .rollback => [.traffic, .log, .rollback]
  | .traffic => [.log, .rollback, .traffic]

/-- A pre-reset entry is still OUTSTANDING: the arbiter grants nothing (R120). -/
def State.settling (s : State) : Bool := s.outstanding fun r => decide (r = .preReset)

/-- The arbiter's choice: class, request and tag (R115). -/
def State.grantChoice (s : State) : Option (Cls × MReq × MTag) :=
  if s.settling then none
  else match s.mport.last.rotation.find? s.eligible with
    | some c =>
      match s.oldestReady c, s.freeTag with
      | some q, some t => some (c, q, t)
      | _, _ => none
    | none => none

/-! ### Issue (R113, R115; raced bytes: log 6) -/

/-- The places of a READ's span that this WRITE may be changing. -/
def racedBy (q w : MReq) : BitVec 96 :=
  BitVec.ofFnLE fun j : Fin 96 => decide (j.val < q.len) && w.selects (q.addr + j.val)

/-- The places of a READ's span that some issued and unanswered WRITE may be changing. -/
def State.racedNow (s : State) (q : MReq) : BitVec 96 :=
  allTags.foldl (fun m t => if (s.tag t).state = .free then m else m ||| racedBy q (s.tag t).req) 0

/-- An OUTSTANDING READ notes the bytes a WRITE now issued may change under it. -/
def TagEntry.noteRace (w : MReq) (e : TagEntry) : TagEntry :=
  if e.state = .outstanding ∧ e.req.write = false then { e with raced := e.raced ||| racedBy e.req w } else e

/-- The table after a request is issued under a tag (R113). -/
def State.issueTags (s : State) (c : Cls) (q : MReq) (t : MTag) : Vector TagEntry 16 :=
  let e : TagEntry := ⟨.outstanding, c, q, s.now + Config.responseLimit, if q.write then 0 else s.racedNow q⟩
  (if q.write then s.mport.tags.map (TagEntry.noteRace q) else s.mport.tags).set t e

/-- The in-flight entry whose memory access is issued moves on (R39, R64, R68). -/
def State.noteIssued (s : State) (r : Ref) : State :=
  match r with
  | .passRead source tag | .passWrite source tag => (s.setStage source tag .issued).promote
  | .dataWrite source tag => (s.setStage source tag .dataIssued).promote
  | .biRead _ | .recordWrite _ _ | .anchorWrite | .walkRead _ | .restore | .scanRead | .anchorRead _ | .dropped
  | .preReset => s

/-- Issues a request of a class under a tag: it leaves its queue, and its class is the last granted (R111, R113,
R115). -/
def State.issue (s : State) (c : Cls) (q : MReq) (t : MTag) : State :=
  let p : MPort := { s.mport with tags := s.issueTags c q t, last := c }
  let u : State := { s with mport := p.setQueue c ((s.mport.queue c).eraseP s.ready) }
  u.noteIssued q.ref

/-- The granted request's span lies in the address space (spec 00 section 7). -/
def MReq.inSpace (q : MReq) : Bool := decide (q.addr + q.len ≤ Config.addressEnd)

/-! ### Answers (R110, R116 to R118, R120) -/

/-- The bytes a READ returns: those of memory, or the operand's where a WRITE was changing the byte (R110, log 6). -/
def State.readData (s : State) (t : MTag) (raced : List Byte) : List Byte :=
  let e := s.tag t
  (List.range e.req.len).map fun j =>
    if e.raced.getLsbD j then raced.getD j 0 else s.mem.get (e.req.addr + j)

/-- The bytes of an answer that reached memory: all selected bytes of a DONE, the landed ones of an ERROR. -/
def landedOf : MemAnswer → BitVec 96
  | .done _ => fullMask
  | .error m => m

/-- The operand bytes of an answer. -/
def racedOf : MemAnswer → List Byte
  | .done bs => bs
  | .error _ => []

/-- The answer is an ERROR. -/
def isErrorAnswer : MemAnswer → Bool
  | .done _ => false
  | .error _ => true

/-- A tag's response arrives: memory changes as the answer says and the tag is FREE (R110, R113). Where two outstanding
WRITEs overlap, the bytes of the one answered last stand (log 44). -/
def State.settle (s : State) (t : MTag) (a : MemAnswer) : State :=
  { s with mem := (s.tag t).req.storeTo (landedOf a) s.mem }.setTag t TagEntry.free

/-- An ERROR handed over counts in MEM_ERRORS (R116, R120). -/
def State.countAnswer (s : State) (a : MemAnswer) : State :=
  if isErrorAnswer a then s.count Counters.memError else s

/-- A response arrives on a tag (R116, R118 to R120). For an OUTSTANDING request that `wanted` names, `act` is its
requester's rule. A request of no further use, a late response and a response to a FREE tag end here; a response row
that does not fit the tag's request stands for no event and changes nothing (log 4). -/
def State.takeAnswer (s : State) (t : MTag) (a : MemAnswer) (wanted : Ref → Bool) (act : State → MReq → State) : State :=
  match (s.tag t).state with
  | .free => s
  | .retired => s.settle t a
  | .outstanding =>
    if (s.tag t).req.ref = .dropped ∨ (s.tag t).req.ref = .preReset then (s.settle t a).countAnswer a
    else if wanted (s.tag t).req.ref then act ((s.settle t a).countAnswer a) (s.tag t).req
    else s

/-- A tag becomes RETIRED at its limit, and the ERROR counts (R117). -/
def State.retire (s : State) (t : MTag) : State :=
  (s.setTag t { s.tag t with state := .retired }).count Counters.memError

end Sys2Proof.Machine
end

