-- ==== Sys2Proof/Machine/Answers.lean ====
section
/-! DEFINITION. Answers: what each requester does with an answer of the M-port: records, data writes, pass-through
accesses and anchors (chapters 1, 2, 4, 8 and 9), and the ERROR an expired request is handed (R119). -/

namespace Sys2Proof.Machine

/-! ### Records (R13, R14, R17, R18, R52, R65, R66) -/

/-- The record of the append window at a position. -/
def State.windowAt (s : State) (pos : Nat) : Option Header := s.log.window.find? fun h => decide (h.pos = pos)

/-- The in-flight entry, not yet answered, that owns the record at a position. -/
def State.ownerOf (s : State) (pos : Nat) : Option Inflight :=
  s.host.inflight.find? fun e => e.ownsRecord pos && decide (e.stage ≠ .done)

/-- Moves the owner of a record to a stage (R65, R66). -/
def State.moveOwner (s : State) (pos : Nat) (st : Stage) : State :=
  match s.ownerOf pos with
  | some e => s.setStage e.source e.tag st
  | none => s

/-- Answers the owner of a record that will not reach its data phase (R70, R71). -/
def State.failOwner (s : State) (pos : Nat) : State :=
  match s.ownerOf pos with
  | some e =>
    match e.work with
    | .journaled _ _ _ i _ => s.answerWrite e.source e.tag i (.failed .memError)
    | .passRead _ _ | .passWrite _ _ _ | .mark _ _ => s
  | none => s

/-- A before-image read is answered DONE: the record is built and its write handed over (R65); in FAULTED the answer is
discarded (R75). -/
def State.biReadDone (s : State) (pos : Nat) (payload : List Byte) : State :=
  if s.bridge = .faulted then s
  else match s.windowAt pos with
    | some h => (s.moveOwner pos .recWrite).writeRecord h false (h.bytesWith payload)
    | none => s

/-- The VOID that takes a BEFORE's place (R5, R17). -/
def Header.voided (h : Header) : Header := { h with kind := .void }

/-- Turns the record at a position into a VOID, posts RECORD_VOIDED, hands the VOID header's write over and answers the
owner FAILED with MEM_ERROR (R17, R18, R70, R71). -/
def State.voidRecord (s : State) (h : Header) (retry : Bool) (d : Detail) : State :=
  let t : State := { s with log := { s.log with
    window := s.log.window.map fun r => if r.pos = h.pos then r.voided else r } }
  ((((t.writeRecord h.voided retry h.voided.bytes).post .recordVoided h.key d h.count h.pos)).failOwner h.pos).promote

/-- A before-image read fails (R17, R70); in FAULTED the failure is discarded (R75). -/
def State.biReadFailed (s : State) (pos : Nat) : State :=
  if s.bridge = .faulted then s
  else match s.windowAt pos with
    | some h => s.voidRecord h false .readError
    | none => s

/-- Widens the logged mask of a durable BEFORE's line by its span (R52). -/
def State.widen (s : State) (h : Header) : State :=
  { s with grp := { s.grp with claims := s.grp.claims.map fun c =>
      if c.line = h.line then { c with mask := c.mask ||| spanMask 64 h.first h.count } else c } }

/-- A record becomes durable: it leaves the window, the counters rise, and a BEFORE widens its line's mask and moves its
write to FRONTIER_WAIT (R14, R52, R66). -/
def State.makeDurable (s : State) (h : Header) : State :=
  let t : State := { s with log := { s.log with window := s.log.window.filter fun r => decide (r.pos ≠ h.pos) } }
  let u := t.count fun c => { c with records := satAdd c.records 1 }
  if h.kind = .before then
    ((u.count fun c => { c with loggedBytes := satAdd c.loggedBytes h.count }).widen h).moveOwner h.pos .frontierWait
  else u

/-- A place of the append window passes to the admission unit when no due closing record takes it (R12, R81). -/
def State.wakeWindow (s : State) : State := if 0 < s.admissionPlaces then s.wakeRoom .window else s

/-- A record write is answered DONE: the record is durable and the frontier's report is taken (R14 to R16, R67); a
recovery stop may have waited for it (R133). DESIGN CHOICE (log 55): where the answer both completes the group and reaches
the stop point, the group ends first, so GROUP_ROLLED_BACK is posted before RECOVERY_FAILED; R133, R141 and R162 give no
order. -/
def State.recordDone (s : State) (pos : Nat) : State :=
  match s.windowAt pos with
  | some h => (((s.makeDurable h).completeClosings).promote).wakeWindow.stopCheck
  | none => s

/-- A record write fails for the first time: a BEFORE is retried as a VOID header, any other record as the same header
(R18, R71); in FAULTED it is not retried (R75, R146). -/
def State.recordFailed (s : State) (pos : Nat) : State :=
  if s.bridge = .faulted then s
  else match s.windowAt pos with
    | some h => if h.kind = .before then s.voidRecord h true .writeError else s.writeRecord h true h.bytes
    | none => s

/-- A record's retry fails: FAULTED with detail LOG_WRITE, in RECOVERING after RECOVERY_FAILED (R18, R143); FAULTED is
entered from RUNNING, DRAINING and RECOVERING alone (R145). -/
def State.retryFailed (s : State) (pos : Nat) : State :=
  match s.bridge with
  | .gated | .halted | .faulted => s
  | .recovering => (s.post .recoveryFailed Key.zero .memError 0 pos).enterFaulted .logWrite pos
  | .running | .draining => s.enterFaulted .logWrite pos

/-! ### Data writes and pass-through accesses (R37, R38, R68, R72) -/

/-- A data write is answered DONE (R68). -/
def State.dataDone (s : State) (source : Source) (tag : ReqTag) : State :=
  match s.findInflight source tag with
  | some e =>
    match e.work with
    | .journaled _ _ _ i _ => s.answerWrite source tag i (.done [])
    | .passRead _ _ | .passWrite _ _ _ | .mark _ _ => s
  | none => s

/-- Sets a slot's damaged flag; the held WRITEs of an OPEN slot's key are refused with DAMAGED (R49, R86). -/
def State.damage (s : State) (i : SlotNo) : State :=
  let t := s.updSlot i fun g => { g with damaged := true }
  if (s.slot i).state = .opened then t.refuseHeldWrites (s.slot i).key .damaged else t

/-- A data write fails (R72); the held writes refused with DAMAGED are answered before it (log 29). -/
def State.dataFailed (s : State) (source : Source) (tag : ReqTag) : State :=
  match s.findInflight source tag with
  | some e =>
    match e.work with
    | .journaled _ _ _ i _ => (s.damage i).answerWrite source tag i (.failed .memError)
    | .passRead _ _ | .passWrite _ _ _ | .mark _ _ => s
  | none => s

/-- A pass-through access is answered DONE with a READ's bytes, or FAILED with MEM_ERROR (R37, R38); an answered READ
may let a data phase begin (R67). -/
def State.passAnswered (s : State) (source : Source) (tag : ReqTag) (a : Answer) : State :=
  (s.answerAdmitted source tag a).promote

/-! ### Anchors (R20, R23, R127, R128, R144) -/

/-- A running anchor write is DONE: the clean barrier may be open, and a noted follow-up is looked at (R20 to R22). In
FAULTED too it is adopted (R23), one that was not issued at the fault entry included (DESIGN CHOICE, log 49). -/
def State.anchorDone (s : State) (c : Copy) (a : Anchor) : State := ((s.adoptAnchor c a).promote).followUpAnchor

/-- A running or drain anchor write fails (R23, R128). Outside RUNNING and DRAINING it is not retried (R145, R146, log
16). -/
def State.anchorFailed (s : State) (c : Copy) (u : AnchorUse) : State :=
  let t : State := { s with log := { s.log with failures := s.log.failures + 1, anchorOp := .idle } }
  let v := t.postAnchorError c
  if s.bridge = .running ∨ s.bridge = .draining then
    if v.log.failures ≤ 1 then
      { v with log := { v.log with anchorOp := .retryWait c (v.now + Config.anchorRetryDelay) u, followUp := false } }
    else v.enterFaulted .anchorWrite 0
  else v

/-- The retry's 1 ms has passed: the same copy is written with the contents current now (R23, R128). -/
def State.anchorRetry (s : State) : State :=
  match s.log.anchorOp with
  | .retryWait c due u =>
    if due ≤ s.now ∧ (s.bridge = .running ∨ s.bridge = .draining) then
      let st : AnchorState := if u = .drain ∧ s.slotsInUse = 0 then .clean else .active
      s.writeAnchor c (s.buildAnchor st s.log.volatileTail s.log.gen) u
    else s
  | .idle | .writing _ _ _ => s

/-- The anchor's state as a notice detail (R128). -/
def Anchor.detail (a : Anchor) : Detail := .anchorState a.state

/-- The drain anchor is DONE: HALTED, with DRAIN_DONE (R128). A drain that a fault has ended posts nothing (R145). -/
def State.drainDone (s : State) (c : Copy) (a : Anchor) : State :=
  let t := s.adoptAnchor c a
  if s.bridge ≠ .draining then t
  else (t.post .drainDone Key.zero a.detail t.slotsInUse a.tail).enterHalted

/-- The conditions of R127: the drain is over. DESIGN CHOICE (log 53): a walk that has failed while its read-ahead READ is
outstanding keeps the drain from ending until the answer, because R105 calls the engine idle only then; R125 says that an outstanding read-ahead READ does not keep the engine from being stopped. -/
def State.drainOver (s : State) : Bool :=
  decide (s.bridge = .draining)
    && (s.host.inflight.all fun e => !e.work.isWrite || decide (e.stage = .done))
    && (allSlots.all fun i => decide ((s.slot i).state ≠ .committing))
    && s.log.window.isEmpty && s.log.due.isEmpty
    && (match s.grp.walk with | none => true | some w => decide (w.phase = .suspended))
    && decide (s.log.anchorOp = .idle)

/-- Writes the stop anchor: CLEAN, with the head as its tail (R144). -/
def State.launchStopAnchor (s : State) : State := s.launchAnchor .clean s.log.head .stop

/-- The anchor write that was outstanding at STOP is answered: DONE, it is the newest durable anchor; failed, it is not
retried (log 16). The stop anchor follows (R144). -/
def State.beforeStopAnswered (s : State) (c : Copy) (a : Anchor) (failed : Bool) : State :=
  if failed then
    let t : State := { s with log := { s.log with failures := s.log.failures + 1 } }
    (t.postAnchorError c).launchStopAnchor
  else (s.adoptAnchor c a).launchStopAnchor

/-- The stop anchor is answered, and with it STOP (R144). -/
def State.stopAnswered (s : State) (c : Copy) (a : Anchor) (failed : Bool) : State :=
  if failed then
    let t : State := { s with log := { s.log with anchorOp := .idle } }
    (t.postAnchorError c).answerLink .memError []
  else (s.adoptAnchor c a).answerLink .ok []

/-- The answer of the anchor write in progress, by what it is for. -/
def State.anchorAnswered (s : State) (failed : Bool) : State :=
  match s.log.anchorOp with
  | .idle | .retryWait _ _ _ => s
  | .writing c a u =>
    match u with
    | .running => if failed then s.anchorFailed c u else s.anchorDone c a
    | .drain => if failed then s.anchorFailed c u else s.drainDone c a
    | .beforeStop => s.beforeStopAnswered c a failed
    | .stop => s.stopAnswered c a failed
    | .freshFirst => if failed then s.freshFailed c else s.freshSecond c a
    | .freshSecond => if failed then s.freshFailed c else s.freshDone c a
    | .recovery => if failed then s.finalFailed c else s.recovered c a

/-! ### An ERROR handed over (R117, R119) -/

/-- The rule that owns a request takes its ERROR (R119). -/
def State.handError (s : State) (r : Ref) : State :=
  match r with
  | .biRead pos => s.biReadFailed pos
  | .recordWrite pos retry => if retry then s.retryFailed pos else s.recordFailed pos
  | .anchorWrite => s.anchorAnswered true
  | .walkRead pos => s.walkReadFailed pos
  | .restore => s.restoreFailed
  | .scanRead => s.scanFailed
  | .anchorRead _ => s.anchorReadFailed
  | .passRead source tag | .passWrite source tag => s.passAnswered source tag (.failed .memError)
  | .dataWrite source tag => s.dataFailed source tag
  | .dropped | .preReset => s

end Sys2Proof.Machine
end

