-- ==== Sys2Proof/Machine/Link.lean ====
section
/-! DEFINITION. Link: the management link: frames, the commands with their checks in the order of R152, and the response
frame (chapters 10 to 12). -/

namespace Sys2Proof.Machine

/-! ### Taking a command (R148 to R150) -/

/-- A frame is taken: the link is EXECUTING, the previous answer is discarded, and the command acts (R150). While the
link is EXECUTING no frame is taken (R148). -/
def State.takeCommand (s : State) (code : Nat) (params : List Byte) (act : State → State) : State :=
  match s.link.state with
  | .executing _ _ => s
  | .idle => act { s with link := { s.link with state := .executing code params, buffer := .none } }

/-- The answer of a check that fails, with no data (R151). -/
def State.deny (s : State) (st : Status) : State := s.answerLink st []

/-- The lock level blocks a command of this level (R153). -/
def State.lockedAt (s : State) (level : Nat) : Bool := decide (level ≤ s.link.lock.val)

/-! ### Read-out commands (R32, R59, R158, R159, R167) -/

/-- GET_IDENT (R158). -/
def State.cmdGetIdent (s : State) : State :=
  s.answerLink .ok (leBytes 2 Config.partCode ++ leBytes 1 Config.revision)

/-- GET_STATE (R158). -/
def State.cmdGetState (s : State) : State := s.answerLink .ok s.stateBytes

/-- GET_REGION (R32). -/
def State.cmdGetRegion (s : State) (index : Nat) : State :=
  if h : index < 8 then s.answerLink .ok ((s.regions[index]).bytes index) else s.deny .range

/-- GET_POLICY (R154). -/
def State.cmdGetPolicy (s : State) : State :=
  s.answerLink .ok (s.link.policy.bytes ++ leBytes 1 s.notes.mask.toNat)

/-- GET_GROUP (R59). -/
def State.cmdGetGroup (s : State) (slot : Nat) : State :=
  if h : slot < 4 then s.answerLink .ok ((s.slot ⟨slot, h⟩).bytes ⟨slot, h⟩) else s.deny .range

/-- GET_COUNTERS (R167). -/
def State.cmdGetCounters (s : State) : State := s.answerLink .ok s.notes.counters.bytes

/-- POP_NOTICE (R164). -/
def State.cmdPopNotice (s : State) : State :=
  match s.notes.queue with
  | [] => s.deny .empty
  | n :: rest =>
    let t : State := { s with notes := { s.notes with queue := rest } }
    t.answerLink .ok n.bytes

/-! ### Configuration commands (R1, R31, R32, R153 to R155, R159, R167) -/

/-- SET_LOG (R1, R155). -/
def State.cmdSetLog (s : State) (base exponent : Nat) : State :=
  match decodeGeometry base exponent with
  | none => s.deny .range
  | some g =>
    if s.lockedAt 1 then s.deny .locked
    else if s.bridge ≠ .gated then s.deny .state
    else if s.geometryMeetsRegion g then s.deny .overlap
    else
      let t : State := { s with log := { s.log with geometry := some g } }
      t.answerLink .ok []

/-- The region table may change: in GATED, and in RUNNING while every group slot is FREE (R155). -/
def State.regionsOpen (s : State) : Bool :=
  decide (s.bridge = .gated) || (decide (s.bridge = .running) && decide (s.slotsInUse = 0))

/-- SET_REGION (R32, R155). -/
def State.cmdSetRegion (s : State) (p : RegionParams) : State :=
  match RegionParams.decode p with
  | none => s.deny .range
  | some (i, r) =>
    if s.lockedAt 2 then s.deny .locked
    else if s.regionsOpen = false then s.deny .busy
    else if s.meetsRegion i r ∨ s.meetsLog r then s.deny .overlap
    else
      let t : State := { s with regions := s.regions.set i r }
      t.answerLink .ok []

/-- CLEAR_REGION (R32, R155). -/
def State.cmdClearRegion (s : State) (index : Nat) : State :=
  if h : index < 8 then
    if s.lockedAt 2 then s.deny .locked
    else if s.regionsOpen = false then s.deny .busy
    else if (s.regions[index]).valid = false then s.deny .notFound
    else
      let t : State := { s with regions := s.regions.set index { s.regions[index] with valid := false } }
      t.answerLink .ok []
  else s.deny .range

/-- The resume-delay timer at a change of resume policy (R130). -/
def State.resumeChange (s : State) (old : ResumePolicy) : State :=
  if s.link.policy.resumePolicy = old then s
  else if s.link.policy.resumePolicy = .manual then { s with resumeAt := none }
  else if s.bridge = .halted ∧ s.pfwAsserted = false then s.startResume
  else s

/-- SET_POLICY (R24, R122, R130, R154): in GATED a value of PFW that changes with the polarity is only shown. -/
def State.cmdSetPolicy (s : State) (p : PolicyParams) : State :=
  match PolicyParams.decode p with
  | none => s.deny .range
  | some q =>
    if s.lockedAt 3 then s.deny .locked
    else if q.polarity ≠ s.link.policy.polarity ∧ s.bridge ≠ .gated then s.deny .state
    else
      let t : State := { s with link := { s.link with policy := q }, log := { s.log with lowArmed := true } }
      (t.resumeChange s.link.policy.resumePolicy).lowCompare.answerLink .ok []

/-- SET_NOTICE_MASK (R159). -/
def State.cmdSetNoticeMask (s : State) (mask : Nat) : State :=
  if mask < 16 then
    let t : State := { s with notes := { s.notes with mask := BitVec.ofNat 4 mask } }
    t.answerLink .ok []
  else s.deny .range

/-- CLEAR_COUNTERS (R167). -/
def State.cmdClearCounters (s : State) : State :=
  if s.lockedAt 3 then s.deny .locked else (s.count fun _ => Counters.zero).answerLink .ok []

/-- SET_LOCK (R153). -/
def State.cmdSetLock (s : State) (level : Nat) : State :=
  if h : level < 4 then
    if level < s.link.lock.val then s.deny .locked
    else
      let t : State := { s with link := { s.link with lock := ⟨level, h⟩ } }
      t.answerLink .ok []
  else s.deny .range

/-! ### Run commands (R131, R135, R137, R138, R144, R156) -/

/-- START FRESH (R135, R137): it stays executing until its anchors are answered. -/
def State.cmdStartFresh (s : State) : State :=
  if s.lockedAt 1 then s.deny .locked
  else match s.startRefusal with
    | some st => s.deny st
    | none => (s.openStart .fresh .gated).readAnchors

/-- START RECOVER (R135, R138): answered OK at once; with PFW asserted recovery is at its stop point before it reads
anything, and hands no anchor READ over (R133). -/
def State.cmdStartRecover (s : State) : State :=
  match s.startRefusal with
  | some st => s.deny st
  | none =>
    let t := (s.openStart .recover .recovering).answerLink .ok []
    if t.pfwAsserted then t.failRecovery .power 0 else t.readAnchors

/-- STOP is taken: RUNNING with every slot FREE and the hold list and in-flight table empty (R144). -/
def State.stopTaken (s : State) : Bool :=
  decide (s.bridge = .running) && decide (s.slotsInUse = 0) && s.host.holds.isEmpty && s.host.inflight.isEmpty

/-- An anchor write outstanding at STOP runs to its answer before the stop anchor; otherwise the stop anchor is written
now (R144). It is outstanding from its hand-over on (DESIGN CHOICE, log 49). -/
def State.stopAnchor (s : State) : State :=
  match s.log.anchorOp with
  | .writing c a _ => { s with log := { s.log with anchorOp := .writing c a .beforeStop } }
  | .idle | .retryWait _ _ _ => s.launchStopAnchor

/-- STOP (R144): when taken it stays executing until the stop anchor is answered. -/
def State.cmdStop (s : State) : State :=
  if s.stopTaken then
    let t : State := { s.dropRetry with bridge := .gated }
    t.redecidePaused.stopAnchor
  else s.deny .busy

/-- RESUME (R131). -/
def State.cmdResume (s : State) : State :=
  if s.bridge = .halted ∧ s.pfwAsserted = false then (s.returnToRunning .manual).answerLink .ok [] else s.deny .state

/-! ### Group commands (R95, R107, R157) -/

/-- ABANDON_GROUP (R95, R157). -/
def State.cmdAbandonGroup (s : State) (source group : Nat) : State :=
  match decodeKey source group with
  | none => s.deny .range
  | some k =>
    if s.lockedAt 3 then s.deny .locked
    else if s.bridge ≠ .running then s.deny .state
    else match s.findSlot k with
      | none => s.deny .notFound
      | some i =>
        if (s.slot i).state = .opened then (s.enterClosing i .rollbackWait .management none).answerLink .ok []
        else s.deny .state

/-- RELEASE_BROKEN (R107, R157): for a BROKEN slot its UNRESTORED record is due, and the command stays executing. -/
def State.cmdReleaseBroken (s : State) (source group : Nat) : State :=
  match decodeKey source group with
  | none => s.deny .range
  | some k =>
    if s.lockedAt 3 then s.deny .locked
    else if s.bridge ≠ .running then s.deny .state
    else match s.findSlot k with
      | none => s.deny .notFound
      | some i => if (s.slot i).state = .broken then s.requestClosing i .unrestored else s.deny .state

/-! ### Frames (R149, R151, R152) -/

/-- The command a frame's code and parameters name (R152, R169). -/
def State.runCommand (s : State) (code : Nat) (ps : List Byte) : State :=
  match code with
  | 0x01 => s.cmdGetIdent
  | 0x02 => s.cmdGetState
  | 0x03 => s.cmdSetLog (field ps 0 8) (field ps 8 1)
  | 0x04 => s.cmdSetRegion (RegionParams.parse ps)
  | 0x05 => s.cmdClearRegion (field ps 0 1)
  | 0x06 => s.cmdGetRegion (field ps 0 1)
  | 0x07 => s.cmdSetPolicy (PolicyParams.parse ps)
  | 0x08 => s.cmdGetPolicy
  | 0x09 =>
    if field ps 0 1 = 1 then s.cmdStartFresh
    else if field ps 0 1 = 2 then s.cmdStartRecover
    else s.deny .range
  | 0x0A => s.cmdStop
  | 0x0B => s.cmdResume
  | 0x0C => s.cmdAbandonGroup (field ps 0 1) (field ps 1 1)
  | 0x0D => s.cmdReleaseBroken (field ps 0 1) (field ps 1 1)
  | 0x0E => s.cmdGetGroup (field ps 0 1)
  | 0x0F => s.cmdPopNotice
  | 0x10 => s.cmdSetNoticeMask (field ps 0 1)
  | 0x11 => s.cmdGetCounters
  | 0x12 => s.cmdClearCounters
  | 0x13 => s.cmdSetLock (field ps 0 1)
  | _ => s

/-- The outcome of a frame test that fails: it replaces the answer and the link stays IDLE (R149). -/
def State.judgeFrame (s : State) (st : Status) : State :=
  { s with link := { s.link with buffer := .answer st [] } }

/-- A frame being collected: its stored bytes, and whether a byte came that was not stored (R148). -/
structure Frame where
  stored : List Byte
  overlong : Bool
  deriving DecidableEq, Repr

/-- A byte after the address byte reaches a frame being collected: one of the first 35 is stored, a later one only marks
the frame as overlong (R148). -/
def Frame.take (f : Frame) (b : Byte) : Frame :=
  if f.stored.length < Config.frameBytes then { f with stored := f.stored ++ [b] } else { f with overlong := true }

/-- The frame that the bytes of a write transfer make (R148). -/
def Frame.collect (bytes : List Byte) : Frame := bytes.foldl Frame.take ⟨[], false⟩

/-- The target acknowledges this byte of a frame being collected (R148). -/
def Frame.acks (f : Frame) : Bool := decide (f.stored.length < Config.frameBytes)

/-- Judges an ended frame (R149). -/
def State.endFrame (s : State) (f : Frame) : State :=
  let bytes := f.stored
  let code := field bytes 0 1
  let len := field bytes 1 1
  if f.overlong = true ∨ bytes.length < 3 then s.judgeFrame .frameError
  else if byteSum bytes ≠ 0 then s.judgeFrame .frameError
  else if len ≠ bytes.length - 3 then s.judgeFrame .frameError
  else match paramCount code with
    | none => s.judgeFrame .unknown
    | some n =>
      if len ≠ n then s.judgeFrame .frameError
      else s.takeCommand code ((bytes.drop 2).take n) fun t => t.runCommand code ((bytes.drop 2).take n)

/-- The target address: 0x58 + ADDR1:0 as sampled (R147). -/
def State.targetAddress (s : State) : BitVec 7 := 0x58 + BitVec.ofNat 7 s.link.straps.val

/-- The direction bit of an address byte (R147). -/
inductive Direction where
  | write
  | read
  deriving DecidableEq, Repr

/-- The target acknowledges an address byte: its own address alone (R147), with the read bit in either link state (R151),
with the write bit while the link is IDLE (R148). -/
def State.acksAddress (s : State) (address : BitVec 7) (d : Direction) : Bool :=
  decide (address = s.targetAddress) &&
    match d with
    | .read => true
    | .write => decide (s.link.state = .idle)

/-- The acknowledgments of a write transfer, for the address byte and each byte after it: an ignored transfer's bytes are
not acknowledged (R147, R148). -/
def State.writeAcks (s : State) (address : BitVec 7) (bytes : List Byte) : List Bool :=
  s.acksAddress address .write ::
    (List.range bytes.length).map fun i =>
      s.acksAddress address .write && (Frame.collect (bytes.take i)).acks

/-- A write transfer to an address, with the bytes after the address byte: the frame it makes is judged at its STOP; a
transfer that is not acknowledged is ignored, and one with no byte is no frame (R147 to R149). -/
def State.writeTransfer (s : State) (address : BitVec 7) (bytes : List Byte) : State :=
  if s.acksAddress address .write = true ∧ bytes ≠ [] then s.endFrame (Frame.collect bytes) else s

/-- A response frame: status, length, data, and the check byte that makes the sum 0 modulo 256 (R151). -/
def frameOf (st : Status) (data : List Byte) : List Byte :=
  let body := [st.code, BitVec.ofNat 8 data.length] ++ data
  body ++ [0 - byteSum body]

/-- The response frame of a read transfer that begins now, fixed when its address is acknowledged. Reading changes nothing
(R151). -/
def State.responseFrame (s : State) : List Byte :=
  match s.link.state with
  | .executing _ _ => frameOf .pending []
  | .idle =>
    match s.link.buffer with
    | .none => frameOf .none []
    | .answer st data => frameOf st data

/-- The byte at an index of a read transfer that begins now: the response frame's, then 0xFF (R151). -/
def State.readByte (s : State) (i : Nat) : Byte := s.responseFrame.getD i 0xFF

/-- The first `n` bytes the target sends in a read transfer to an address; none where it does not acknowledge the address
(R147, R151). -/
def State.readTransfer (s : State) (address : BitVec 7) (n : Nat) : List Byte :=
  if s.acksAddress address .read then (List.range n).map s.readByte else []

end Sys2Proof.Machine
end

