-- ==== Sys2Proof/Machine/HostCommands.lean ====
section
/-! DEFINITION. HostCommands: the meanings of the steps of the H-port, the admission unit, the hold list and the group
table. -/

namespace Sys2Proof.Machine

/-! ### The H-port and the admission unit -/

/-- The H-port takes a request when the intake holds fewer than 32 entries, and marks a duplicate (R26, R28); a full
intake leaves the request with its master. -/
def State.takeRequest (s : State) (r : Request) : State :=
  if s.host.intake.length < Config.intakeDepth then
    { s with host := { s.host with intake := s.host.intake ++ [⟨r, s.isPresent r.source r.tag⟩] } }
  else s

/-- HOST_REQUEST (R26). -/
def execHostRequest (r : Request) (s : State) : Host.Outcome State Fault Refusal := live s fun s => s.takeRequest r

/-- The front request is a WRITE. -/
def ReqKind.isWrite : ReqBody → Bool
  | .write _ _ _ _ => true
  | .read _ _ | .mark _ _ => false

/-- The front request is a READ. -/
def ReqKind.isRead : ReqBody → Bool
  | .read _ _ => true
  | .write _ _ _ _ | .mark _ _ => false

/-- The front request is a MARK of this kind. -/
def ReqKind.isMark (k : MarkKind) : ReqBody → Bool
  | .mark _ k' => decide (k' = k)
  | .read _ _ | .write _ _ _ _ => false

/-- ADMIT_WRITE (R60). -/
def execAdmitWrite (s : State) : Host.Outcome State Fault Refusal := live s fun s => s.takeNext ReqKind.isWrite

/-- ADMIT_READ (R37). -/
def execAdmitRead (s : State) : Host.Outcome State Fault Refusal := live s fun s => s.takeNext ReqKind.isRead

/-- MARK_COMMIT (R91). -/
def execMarkCommit (s : State) : Host.Outcome State Fault Refusal :=
  live s fun s => s.takeNext (ReqKind.isMark .commit)

/-- MARK_ABANDON (R92). -/
def execMarkAbandon (s : State) : Host.Outcome State Fault Refusal :=
  live s fun s => s.takeNext (ReqKind.isMark .abandon)

/-- MARK_OTHER_KIND (R29). -/
def execMarkOtherKind (s : State) : Host.Outcome State Fault Refusal :=
  live s fun s => s.takeNext (ReqKind.isMark .other)

/-! ### Responses -/

/-- A response is sent: the in-flight entry of an admitted request frees, which wakes the entries that wait for one and ends
a pause for one, and a REFUSED response counts (R27, R30, R62, R81, R166). -/
def State.sendResponse (s : State) (r : Response) : State :=
  let freed := s.host.inflight.eraseP fun e =>
    decide (e.source = r.source) && decide (e.tag = r.tag) && decide (e.stage = .done)
  let t := if r.admitted then ({ s with host := { s.host with inflight := freed } } : State).wakeRoom .inFlight else s
  match r.answer with
  | .refused _ => t.count fun c => { c with refusals := satAdd c.refusals 1 }
  | .done _ | .failed _ => t

/-- The host response lane takes the oldest decided response (R30). -/
def State.sendOldest (s : State) : State :=
  match s.host.responses with
  | [] => s
  | r :: rest => ({ s with host := { s.host with responses := rest } } : State).sendResponse r

/-- RESPONSE_SENT (R30). -/
def execResponseSent (s : State) : Host.Outcome State Fault Refusal := live s State.sendOldest

/-! ### The hold list -/

/-- HOLD_REEVALUATE (R82): the marked entries are taken oldest first until none is marked, in one step (log 43). -/
def execHoldReevaluate (s : State) : Host.Outcome State Fault Refusal :=
  live s fun s => s.reevaluatePass (s.host.holds.length * (s.host.holds.length + 2))

/-- This held request's deadline has been reached (R80). -/
def Hold.expired (h : Hold) (source : Source) (tag : ReqTag) (now : Nat) : Bool :=
  decide (h.req.source = source) && decide (h.req.tag = tag) && decide (h.deadline ≤ now)

/-- The entry of this source and tag is removed and refused with HOLD_TIMEOUT once its deadline is reached (R80, R84). -/
def State.holdTimeout (s : State) (source : Source) (tag : ReqTag) : State :=
  match s.host.holds.find? fun h => h.expired source tag s.now with
  | some h =>
    let t := s.setHolds (s.host.holds.eraseP fun h => h.expired source tag s.now)
    ((t.refuse h.req .holdTimeout).count fun c => { c with holdTimeouts := satAdd c.holdTimeouts 1 }).wakeOrder source tag
  | none => s

/-- HOLD_TIMEOUT (R80). -/
def execHoldTimeout (source : Source) (tag : ReqTag) (s : State) : Host.Outcome State Fault Refusal :=
  live s fun s => s.holdTimeout source tag

/-! ### Groups -/

/-- A slot's idle deadline has reached zero: it closes by its damaged flag and the idle action in force (R93). -/
def State.expireIdle (s : State) (i : SlotNo) : State :=
  if s.bridge = .running ∧ (s.slot i).state = .opened ∧ (s.slot i).idle = some 0 then
    if (s.slot i).damaged then s.enterClosing i .rollbackWait .damaged none
    else match s.link.policy.idleAction with
      | .commit => s.enterClosing i .committing .idle none
      | .rollback => s.enterClosing i .rollbackWait .idle none
  else s

/-- IDLE_EXPIRY (R93). -/
def execIdleExpiry (i : SlotNo) (s : State) : Host.Outcome State Fault Refusal := live s fun s => s.expireIdle i

/-- The log engine allocates closing records: in RUNNING, DRAINING, and RECOVERING that is not to stop (R96, R103, R124,
R133, R146). -/
def State.closesRecords (s : State) : Bool :=
  match s.bridge with
  | .running | .draining => true
  | .recovering => !s.stopping
  | .gated | .halted | .faulted => false

/-- The first due closing record is allocated when the window has a place (R12, R96). -/
def State.allocateDue (s : State) : State :=
  match s.log.due with
  | [] => s
  | c :: rest =>
    if s.closesRecords = true ∧ s.log.window.length < Config.windowDepth then
      ({ s with log := { s.log with due := rest } } : State).allocateClosing c
    else s

/-- CLOSING_RECORD_ALLOCATE (R96). -/
def execClosingRecordAllocate (s : State) : Host.Outcome State Fault Refusal := live s State.allocateDue

/-- ROLLBACK_TAKE_SLOT (R99). -/
def execRollbackTakeSlot (s : State) : Host.Outcome State Fault Refusal := live s State.takeSlot

end Sys2Proof.Machine
end

