-- ==== Sys2Proof/Machine/PortCommands.lean ====
section
/-! DEFINITION. PortCommands: the meanings of the steps of the M-port: the grant, the expiry, and the answers by
requester (chapters 1, 4, 6, 7 and 9). -/

namespace Sys2Proof.Machine

/-! ### Grant, expiry and discarded responses -/

/-- MPORT_GRANT (R115). A span outside the address space faults (log 24). -/
def execMportGrant (s : State) : Host.Outcome State Fault Refusal :=
  if s.power then
    match s.grantChoice with
    | none => .next s
    | some (c, q, t) => if q.inSpace then .next (s.issue c q t) else .fault .outsideMemory
  else .next s

/-- RESPONSE_LIMIT_EXPIRY (R117). -/
def execResponseLimitExpiry (t : MTag) (s : State) : Host.Outcome State Fault Refusal :=
  live s fun s =>
    if (s.tag t).state = .outstanding ∧ (s.tag t).limit ≤ s.now then (s.retire t).handError (s.tag t).req.ref else s

/-- LATE_RESPONSE (R118). -/
def execLateResponse (t : MTag) (a : MemAnswer) (s : State) : Host.Outcome State Fault Refusal :=
  live s fun s => if (s.tag t).state = .retired then s.settle t a else s

/-- PRE_RESET_RESPONSE (R120). -/
def execPreResetResponse (t : MTag) (a : MemAnswer) (s : State) : Host.Outcome State Fault Refusal :=
  live s fun s => s.takeAnswer t a (fun _ => false) fun u _ => u

/-! ### The journaled write -/

/-- A before-image READ. -/
def Ref.isBiRead : Ref → Bool
  | .biRead _ => true
  | _ => false

/-- A record WRITE, the first or the retry. -/
def Ref.isRecordWrite (retry : Bool) : Ref → Bool
  | .recordWrite _ r => decide (r = retry)
  | _ => false

/-- A journaled data WRITE. -/
def Ref.isDataWrite : Ref → Bool
  | .dataWrite _ _ => true
  | _ => false

/-- BI_READ_DONE (R65). -/
def execBiReadDone (t : MTag) (raced : List Byte) (s : State) : Host.Outcome State Fault Refusal :=
  live s fun s => s.takeAnswer t (.done raced) Ref.isBiRead fun u q =>
    match q.ref with
    | .biRead pos => u.biReadDone pos (s.readData t raced)
    | _ => u

/-- BI_READ_FAILED (R17). -/
def execBiReadFailed (t : MTag) (s : State) : Host.Outcome State Fault Refusal :=
  live s fun s => s.takeAnswer t (.error 0) Ref.isBiRead fun u q =>
    match q.ref with
    | .biRead pos => u.biReadFailed pos
    | _ => u

/-- RECORD_WRITE_DONE (R14), for a record write or its retry. -/
def execRecordWriteDone (t : MTag) (s : State) : Host.Outcome State Fault Refusal :=
  live s fun s =>
    s.takeAnswer t (.done []) (fun r => r.isRecordWrite false || r.isRecordWrite true) fun u q =>
      match q.ref with
      | .recordWrite pos _ => u.recordDone pos
      | _ => u

/-- RECORD_WRITE_FAILED (R18). -/
def execRecordWriteFailed (t : MTag) (landed : BitVec 96) (s : State) : Host.Outcome State Fault Refusal :=
  live s fun s => s.takeAnswer t (.error landed) (Ref.isRecordWrite false) fun u q =>
    match q.ref with
    | .recordWrite pos _ => u.recordFailed pos
    | _ => u

/-- RECORD_RETRY_FAILED (R18). -/
def execRecordRetryFailed (t : MTag) (landed : BitVec 96) (s : State) : Host.Outcome State Fault Refusal :=
  live s fun s => s.takeAnswer t (.error landed) (Ref.isRecordWrite true) fun u q =>
    match q.ref with
    | .recordWrite pos _ => u.retryFailed pos
    | _ => u

/-- DATA_WRITE_DONE (R68). -/
def execDataWriteDone (t : MTag) (s : State) : Host.Outcome State Fault Refusal :=
  live s fun s => s.takeAnswer t (.done []) Ref.isDataWrite fun u q =>
    match q.ref with
    | .dataWrite source tag => u.dataDone source tag
    | _ => u

/-- DATA_WRITE_FAILED (R72). -/
def execDataWriteFailed (t : MTag) (landed : BitVec 96) (s : State) : Host.Outcome State Fault Refusal :=
  live s fun s => s.takeAnswer t (.error landed) Ref.isDataWrite fun u q =>
    match q.ref with
    | .dataWrite source tag => u.dataFailed source tag
    | _ => u

/-! ### Pass-through accesses -/

/-- A pass-through READ. -/
def Ref.isPassRead : Ref → Bool
  | .passRead _ _ => true
  | _ => false

/-- A pass-through WRITE. -/
def Ref.isPassWrite : Ref → Bool
  | .passWrite _ _ => true
  | _ => false

/-- The answer of a request whose memory access ended so (R37, R38). -/
def answerOf (a : MemAnswer) (data : List Byte) : Answer :=
  match a with
  | .done _ => .done data
  | .error _ => .failed .memError

/-- PASS_READ_ANSWERED (R37). -/
def execPassReadAnswered (t : MTag) (a : MemAnswer) (s : State) : Host.Outcome State Fault Refusal :=
  live s fun s => s.takeAnswer t a Ref.isPassRead fun u q =>
    match q.ref with
    | .passRead source tag => u.passAnswered source tag (answerOf a (s.readData t (racedOf a)))
    | _ => u

/-- PASS_WRITE_ANSWERED (R38). -/
def execPassWriteAnswered (t : MTag) (a : MemAnswer) (s : State) : Host.Outcome State Fault Refusal :=
  live s fun s => s.takeAnswer t a Ref.isPassWrite fun u q =>
    match q.ref with
    | .passWrite source tag => u.passAnswered source tag (answerOf a [])
    | _ => u

/-! ### Anchors -/

/-- An anchor WRITE, while the one in progress is for one of these uses. -/
def State.wantsAnchor (s : State) (uses : List AnchorUse) (r : Ref) : Bool :=
  decide (r = .anchorWrite) &&
    match s.anchorUse with
    | some u => uses.contains u
    | none => false

/-- ANCHOR_WRITE_DONE (R20) of a running anchor. -/
def execAnchorWriteDone (t : MTag) (s : State) : Host.Outcome State Fault Refusal :=
  live s fun s => s.takeAnswer t (.done []) (s.wantsAnchor [.running]) fun u _ => u.anchorAnswered false

/-- ANCHOR_WRITE_FAILED (R23) of a running or drain anchor. -/
def execAnchorWriteFailed (t : MTag) (landed : BitVec 96) (s : State) : Host.Outcome State Fault Refusal :=
  live s fun s =>
    s.takeAnswer t (.error landed) (s.wantsAnchor [.running, .drain]) fun u _ => u.anchorAnswered true

/-- ANCHOR_RETRY (R23). -/
def execAnchorRetry (s : State) : Host.Outcome State Fault Refusal := live s State.anchorRetry

/-- DRAIN_DONE (R128). -/
def execDrainDone (t : MTag) (s : State) : Host.Outcome State Fault Refusal :=
  live s fun s => s.takeAnswer t (.done []) (s.wantsAnchor [.drain]) fun u _ => u.anchorAnswered false

/-- FRESH_ANCHOR_ANSWERED (R137). -/
def execFreshAnchorAnswered (t : MTag) (a : MemAnswer) (s : State) : Host.Outcome State Fault Refusal :=
  live s fun s =>
    s.takeAnswer t a (s.wantsAnchor [.freshFirst, .freshSecond]) fun u _ => u.anchorAnswered (isErrorAnswer a)

/-- RECOVERY_DONE (R142). -/
def execRecoveryDone (t : MTag) (a : MemAnswer) (s : State) : Host.Outcome State Fault Refusal :=
  live s fun s => s.takeAnswer t a (s.wantsAnchor [.recovery]) fun u _ => u.anchorAnswered (isErrorAnswer a)

/-- STOP_ANCHOR_ANSWERED (R144), of the stop anchor or of the anchor write outstanding before it. -/
def execStopAnchorAnswered (t : MTag) (a : MemAnswer) (s : State) : Host.Outcome State Fault Refusal :=
  live s fun s =>
    s.takeAnswer t a (s.wantsAnchor [.beforeStop, .stop]) fun u _ => u.anchorAnswered (isErrorAnswer a)

/-! ### The rollback engine -/

/-- A walk record READ. -/
def Ref.isWalkRead : Ref → Bool
  | .walkRead _ => true
  | _ => false

/-- An anchor READ. -/
def Ref.isAnchorRead : Ref → Bool
  | .anchorRead _ => true
  | _ => false

/-- WALK_READ_ANSWERED (R100). -/
def execWalkReadAnswered (t : MTag) (a : MemAnswer) (s : State) : Host.Outcome State Fault Refusal :=
  live s fun s => s.takeAnswer t a Ref.isWalkRead fun u q =>
    match q.ref with
    | .walkRead pos => if isErrorAnswer a then u.walkReadFailed pos else u.walkReadDone (s.readData t (racedOf a))
    | _ => u

/-- RESTORE_ANSWERED (R101). -/
def execRestoreAnswered (t : MTag) (a : MemAnswer) (s : State) : Host.Outcome State Fault Refusal :=
  live s fun s => s.takeAnswer t a (fun r => decide (r = .restore)) fun u _ =>
    if isErrorAnswer a then u.restoreFailed else u.restoreDone

/-- ANCHOR_READ_ANSWERED (R136). -/
def execAnchorReadAnswered (t : MTag) (a : MemAnswer) (s : State) : Host.Outcome State Fault Refusal :=
  live s fun s => s.takeAnswer t a Ref.isAnchorRead fun u q =>
    match q.ref with
    | .anchorRead c => if isErrorAnswer a then u.anchorReadFailed else u.anchorReadDone c (s.readData t (racedOf a))
    | _ => u

/-- SCAN_READ_ANSWERED (R139). -/
def execScanReadAnswered (t : MTag) (a : MemAnswer) (s : State) : Host.Outcome State Fault Refusal :=
  live s fun s => s.takeAnswer t a (fun r => decide (r = .scanRead)) fun u _ =>
    if isErrorAnswer a then u.scanFailed else u.scanDone (s.readData t (racedOf a))

/-- RECOVERY_FINAL_ANCHOR (R142). -/
def execRecoveryFinalAnchor (s : State) : Host.Outcome State Fault Refusal :=
  live s fun s =>
    match s.start with
    | some o => if s.recoveryOver o then s.finalAnchor o else s
    | none => s

end Sys2Proof.Machine
end

