-- ==== Sys2Proof/Machine/PowerCommands.lean ====
section
/-! DEFINITION. PowerCommands: the meanings of the steps of the power-fail monitor, the resets and the supply
(chapters 8 and 9), and the tick of the timebase. -/

namespace Sys2Proof.Machine

/-! ### The power-fail monitor -/

/-- PFW becomes asserted (R122, R123, R130, R133); a level that is asserted already is no assertion. -/
def State.assertPfw (s : State) : State :=
  if s.pfwAsserted then s
  else
    let t : State := { s with pfwHigh := s.assertedLevel }
    match s.bridge with
    | .running => t.enterDraining
    | .recovering => t.stopRecovery
    | .halted => { t with resumeAt := none }
    | .gated | .draining | .faulted => t

/-- PFW_ASSERT (R123). -/
def execPfwAssert (s : State) : Host.Outcome State Fault Refusal := live s State.assertPfw

/-- PFW becomes deasserted (R122, R130). -/
def State.deassertPfw (s : State) : State :=
  if s.pfwAsserted then
    let t : State := { s with pfwHigh := !s.assertedLevel }
    if s.bridge = .halted then t.resumeIfAuto else t
  else s

/-- PFW_DEASSERT (R130). -/
def execPfwDeassert (s : State) : Host.Outcome State Fault Refusal := live s State.deassertPfw

/-- DRAIN_END (R127). -/
def execDrainEnd (s : State) : Host.Outcome State Fault Refusal :=
  live s fun s => if s.drainOver then s.launchDrainAnchor else s

/-- The resume-delay timer has reached the resume delay (R130, R132). -/
def State.resumeDelayExpiry (s : State) : State :=
  match s.resumeAt with
  | some d => if d ≤ s.now ∧ s.bridge = .halted then s.returnToRunning .auto else s
  | none => s

/-- RESUME_DELAY_EXPIRY (R130). -/
def execResumeDelayExpiry (s : State) : Host.Outcome State Fault Refusal := live s State.resumeDelayExpiry

/-! ### Resets and the supply -/

/-- The M-port after a warm reset: OUTSTANDING and RETIRED entries stay, the OUTSTANDING ones without a requester; the
class queues are empty and TRAFFIC is the last granted (R113, R120). -/
def MPort.warmReset (p : MPort) : MPort :=
  ⟨[], [], [],
    p.tags.map fun e => if e.state = .outstanding then { e with req := { e.req with ref := .preReset } } else e,
    .traffic⟩

/-- The part after a warm reset (R31, R41, R43, R50, R76, R98, R99, R113, R134, R160, R161, R165, R167, spec 1.10). -/
def State.warmReset (s : State) : State where
  power := s.power
  bridge := .gated
  start := none
  regions := s.regions
  host := HostSide.reset
  grp := GroupSide.reset
  log := LogSide.reset s.log.geometry
  mport := s.mport.warmReset
  link := { s.link with state := .idle, buffer := .none }
  notes := ⟨[], 0, s.notes.mask, Counters.zero⟩
  pfwHigh := s.pfwHigh
  resumeAt := none
  now := s.now
  mem := s.mem
  pending := s.pending

/-- WARM_RESET (R134). -/
def execWarmReset (s : State) : Host.Outcome State Fault Refusal := live s State.warmReset

/-- Memory after the part loses its issued WRITEs: the landed bytes of each have reached it (R110, log 5, 9). -/
def State.landIssued (s : State) (landed : List (BitVec 96)) : Memory :=
  allTags.foldl (fun m t =>
    if (s.tag t).state = .free then m else (s.tag t).req.storeTo (landed.getD t.val 0) m) s.mem

/-- POWER_ON_RESET (R134). -/
def execPowerOnReset (straps : Fin 4) (pfwHigh : Bool) (landed : List (BitVec 96)) (s : State) :
    Host.Outcome State Fault Refusal :=
  .next (State.powerOn straps pfwHigh (s.landIssued landed) s.pending)

/-- The supply is lost: all volatile state vanishes (R110, log 8). -/
def State.losePower (s : State) (landed : List (BitVec 96)) : State :=
  { State.powerOn s.link.straps s.pfwHigh (s.landIssued landed) s.pending with power := false }

/-- POWER_LOSS (R110). -/
def execPowerLoss (landed : List (BitVec 96)) (s : State) : Host.Outcome State Fault Refusal :=
  live s fun s => s.losePower landed

/-! ### The timebase -/

/-- A slot's idle deadline after 1 µs (R47). -/
def GroupSlot.tick (g : GroupSlot) : GroupSlot :=
  if g.state = .opened then { g with idle := g.idle.map fun n => n - 1 } else g

/-- 1 µs of the timebase: idle deadlines run while the bridge is RUNNING (R47, spec 00 section 7, log 3). -/
def State.tick (s : State) : State :=
  let t : State := { s with now := s.now + 1 }
  if s.bridge = .running then { t with grp := { t.grp with slots := t.grp.slots.map GroupSlot.tick } } else t

end Sys2Proof.Machine
end

