-- ==== Sys2Proof/Machine/LinkCommands.lean ====
section
/-! DEFINITION. LinkCommands: the meanings of COMMAND_FRAME and of the management commands. A command's own row stands
for its frame's being taken (R150, log 7). -/

namespace Sys2Proof.Machine

/-- COMMAND_FRAME (R149). -/
def execCommandFrame (address : BitVec 7) (bytes : List Byte) (s : State) : Host.Outcome State Fault Refusal :=
  live s fun s => s.writeTransfer address bytes

/-- GET_IDENT (R158). -/
def execGetIdent (s : State) : Host.Outcome State Fault Refusal :=
  live s fun s => s.takeCommand 0x01 [] State.cmdGetIdent

/-- GET_STATE (R158). -/
def execGetState (s : State) : Host.Outcome State Fault Refusal :=
  live s fun s => s.takeCommand 0x02 [] State.cmdGetState

/-- SET_LOG (R155). -/
def execSetLog (base exponent : Nat) (s : State) : Host.Outcome State Fault Refusal :=
  live s fun s => s.takeCommand 0x03 (leBytes 8 base ++ leBytes 1 exponent) fun t => t.cmdSetLog base exponent

/-- The bytes of SET_REGION's parameters (spec 12.3). -/
def regionParamBytes (p : RegionParams) : List Byte :=
  leBytes 1 p.index ++ leBytes 8 p.base ++ leBytes 8 p.size ++ leBytes 1 p.cls ++ leBytes 1 p.policy

/-- SET_REGION (R32). -/
def execSetRegion (p : RegionParams) (s : State) : Host.Outcome State Fault Refusal :=
  live s fun s => s.takeCommand 0x04 (regionParamBytes p) fun t => t.cmdSetRegion p

/-- CLEAR_REGION (R32). -/
def execClearRegion (index : Nat) (s : State) : Host.Outcome State Fault Refusal :=
  live s fun s => s.takeCommand 0x05 (leBytes 1 index) fun t => t.cmdClearRegion index

/-- GET_REGION (R32). -/
def execGetRegion (index : Nat) (s : State) : Host.Outcome State Fault Refusal :=
  live s fun s => s.takeCommand 0x06 (leBytes 1 index) fun t => t.cmdGetRegion index

/-- The bytes of SET_POLICY's parameters (spec 12.3). -/
def policyParamBytes (p : PolicyParams) : List Byte :=
  leBytes 1 p.holdPolicy ++ leBytes 2 p.holdLimit ++ leBytes 2 p.idleLimit ++ leBytes 1 p.idleAction
    ++ leBytes 4 p.lowWater ++ leBytes 1 p.resumePolicy ++ leBytes 1 p.resumeDelay ++ leBytes 1 p.polarity

/-- SET_POLICY (R154). -/
def execSetPolicy (p : PolicyParams) (s : State) : Host.Outcome State Fault Refusal :=
  live s fun s => s.takeCommand 0x07 (policyParamBytes p) fun t => t.cmdSetPolicy p

/-- GET_POLICY (R154). -/
def execGetPolicy (s : State) : Host.Outcome State Fault Refusal :=
  live s fun s => s.takeCommand 0x08 [] State.cmdGetPolicy

/-- START with mode FRESH (R137). -/
def execStartFresh (s : State) : Host.Outcome State Fault Refusal :=
  live s fun s => s.takeCommand 0x09 [1] State.cmdStartFresh

/-- START with mode RECOVER (R138). -/
def execStartRecover (s : State) : Host.Outcome State Fault Refusal :=
  live s fun s => s.takeCommand 0x09 [2] State.cmdStartRecover

/-- STOP (R144). -/
def execStop (s : State) : Host.Outcome State Fault Refusal := live s fun s => s.takeCommand 0x0A [] State.cmdStop

/-- RESUME (R131). -/
def execResume (s : State) : Host.Outcome State Fault Refusal := live s fun s => s.takeCommand 0x0B [] State.cmdResume

/-- ABANDON_GROUP (R95). -/
def execAbandonGroup (source group : Nat) (s : State) : Host.Outcome State Fault Refusal :=
  live s fun s => s.takeCommand 0x0C (leBytes 1 source ++ leBytes 1 group) fun t => t.cmdAbandonGroup source group

/-- RELEASE_BROKEN (R107). -/
def execReleaseBroken (source group : Nat) (s : State) : Host.Outcome State Fault Refusal :=
  live s fun s =>
    s.takeCommand releaseCode (leBytes 1 source ++ leBytes 1 group) fun t => t.cmdReleaseBroken source group

/-- GET_GROUP (R59). -/
def execGetGroup (slot : Nat) (s : State) : Host.Outcome State Fault Refusal :=
  live s fun s => s.takeCommand 0x0E (leBytes 1 slot) fun t => t.cmdGetGroup slot

/-- POP_NOTICE (R164). -/
def execPopNotice (s : State) : Host.Outcome State Fault Refusal :=
  live s fun s => s.takeCommand 0x0F [] State.cmdPopNotice

/-- SET_NOTICE_MASK (R159). -/
def execSetNoticeMask (mask : Nat) (s : State) : Host.Outcome State Fault Refusal :=
  live s fun s => s.takeCommand 0x10 (leBytes 1 mask) fun t => t.cmdSetNoticeMask mask

/-- GET_COUNTERS (R167). -/
def execGetCounters (s : State) : Host.Outcome State Fault Refusal :=
  live s fun s => s.takeCommand 0x11 [] State.cmdGetCounters

/-- CLEAR_COUNTERS (R167). -/
def execClearCounters (s : State) : Host.Outcome State Fault Refusal :=
  live s fun s => s.takeCommand 0x12 [] State.cmdClearCounters

/-- SET_LOCK (R153). -/
def execSetLock (level : Nat) (s : State) : Host.Outcome State Fault Refusal :=
  live s fun s => s.takeCommand 0x13 (leBytes 1 level) fun t => t.cmdSetLock level

end Sys2Proof.Machine
end

