-- ==== Sys2Proof/Machine/Dispatch.lean ====
section
/-! DEFINITION. Dispatch: the meaning of every command, one arm per constructor of Instr. -/

namespace Sys2Proof.Machine

/-- A command's effect on everything but the queue. -/
def exec (i : Instr) (s : State) : Host.Outcome State Fault Refusal :=
  match i with
  | .hostRequest r => Sys2Proof.Machine.execHostRequest r s
  | .admitWrite => Sys2Proof.Machine.execAdmitWrite s
  | .admitRead => Sys2Proof.Machine.execAdmitRead s
  | .markCommit => Sys2Proof.Machine.execMarkCommit s
  | .markAbandon => Sys2Proof.Machine.execMarkAbandon s
  | .responseSent => Sys2Proof.Machine.execResponseSent s
  | .holdReevaluate => Sys2Proof.Machine.execHoldReevaluate s
  | .holdTimeout source tag => Sys2Proof.Machine.execHoldTimeout source tag s
  | .idleExpiry slot => Sys2Proof.Machine.execIdleExpiry slot s
  | .closingRecordAllocate => Sys2Proof.Machine.execClosingRecordAllocate s
  | .mportGrant => Sys2Proof.Machine.execMportGrant s
  | .responseLimitExpiry tag => Sys2Proof.Machine.execResponseLimitExpiry tag s
  | .lateResponse tag ans => Sys2Proof.Machine.execLateResponse tag ans s
  | .preResetResponse tag ans => Sys2Proof.Machine.execPreResetResponse tag ans s
  | .biReadDone tag raced => Sys2Proof.Machine.execBiReadDone tag raced s
  | .biReadFailed tag => Sys2Proof.Machine.execBiReadFailed tag s
  | .recordWriteDone tag => Sys2Proof.Machine.execRecordWriteDone tag s
  | .recordWriteFailed tag landed => Sys2Proof.Machine.execRecordWriteFailed tag landed s
  | .recordRetryFailed tag landed => Sys2Proof.Machine.execRecordRetryFailed tag landed s
  | .dataWriteDone tag => Sys2Proof.Machine.execDataWriteDone tag s
  | .dataWriteFailed tag landed => Sys2Proof.Machine.execDataWriteFailed tag landed s
  | .passReadAnswered tag ans => Sys2Proof.Machine.execPassReadAnswered tag ans s
  | .passWriteAnswered tag ans => Sys2Proof.Machine.execPassWriteAnswered tag ans s
  | .anchorWriteDone tag => Sys2Proof.Machine.execAnchorWriteDone tag s
  | .anchorWriteFailed tag landed => Sys2Proof.Machine.execAnchorWriteFailed tag landed s
  | .anchorRetry => Sys2Proof.Machine.execAnchorRetry s
  | .rollbackTakeSlot => Sys2Proof.Machine.execRollbackTakeSlot s
  | .walkReadAnswered tag ans => Sys2Proof.Machine.execWalkReadAnswered tag ans s
  | .restoreAnswered tag ans => Sys2Proof.Machine.execRestoreAnswered tag ans s
  | .pfwAssert => Sys2Proof.Machine.execPfwAssert s
  | .pfwDeassert => Sys2Proof.Machine.execPfwDeassert s
  | .drainEnd => Sys2Proof.Machine.execDrainEnd s
  | .drainDone tag => Sys2Proof.Machine.execDrainDone tag s
  | .resumeDelayExpiry => Sys2Proof.Machine.execResumeDelayExpiry s
  | .warmReset => Sys2Proof.Machine.execWarmReset s
  | .powerOnReset straps pfwHigh landed => Sys2Proof.Machine.execPowerOnReset straps pfwHigh landed s
  | .anchorReadAnswered tag ans => Sys2Proof.Machine.execAnchorReadAnswered tag ans s
  | .freshAnchorAnswered tag ans => Sys2Proof.Machine.execFreshAnchorAnswered tag ans s
  | .scanReadAnswered tag ans => Sys2Proof.Machine.execScanReadAnswered tag ans s
  | .recoveryFinalAnchor => Sys2Proof.Machine.execRecoveryFinalAnchor s
  | .recoveryDone tag ans => Sys2Proof.Machine.execRecoveryDone tag ans s
  | .stopAnchorAnswered tag ans => Sys2Proof.Machine.execStopAnchorAnswered tag ans s
  | .commandFrame address bytes => Sys2Proof.Machine.execCommandFrame address bytes s
  | .getIdent => Sys2Proof.Machine.execGetIdent s
  | .getState => Sys2Proof.Machine.execGetState s
  | .setLog base exponent => Sys2Proof.Machine.execSetLog base exponent s
  | .setRegion p => Sys2Proof.Machine.execSetRegion p s
  | .clearRegion index => Sys2Proof.Machine.execClearRegion index s
  | .getRegion index => Sys2Proof.Machine.execGetRegion index s
  | .setPolicy p => Sys2Proof.Machine.execSetPolicy p s
  | .getPolicy => Sys2Proof.Machine.execGetPolicy s
  | .startFresh => Sys2Proof.Machine.execStartFresh s
  | .startRecover => Sys2Proof.Machine.execStartRecover s
  | .stop => Sys2Proof.Machine.execStop s
  | .resume => Sys2Proof.Machine.execResume s
  | .abandonGroup source group => Sys2Proof.Machine.execAbandonGroup source group s
  | .releaseBroken source group => Sys2Proof.Machine.execReleaseBroken source group s
  | .getGroup slot => Sys2Proof.Machine.execGetGroup slot s
  | .popNotice => Sys2Proof.Machine.execPopNotice s
  | .setNoticeMask mask => Sys2Proof.Machine.execSetNoticeMask mask s
  | .getCounters => Sys2Proof.Machine.execGetCounters s
  | .clearCounters => Sys2Proof.Machine.execClearCounters s
  | .setLock level => Sys2Proof.Machine.execSetLock level s
  | .powerLoss landed => Sys2Proof.Machine.execPowerLoss landed s
  | .markOtherKind => Sys2Proof.Machine.execMarkOtherKind s

end Sys2Proof.Machine
end

