-- ==== Sys2Proof/Safety.lean ====
section
/-! DEFINITION. Safety: what a good state and a safe step are, and the words the statements use. -/

namespace Sys2Proof.Machine

/-! ### Good states -/

/-- No queue or table holds more than the part has room for: intake 32 (R26), hold list 8 (R77), in-flight table 32
(R27), append window 8 (R12), claim table 256 (R50), notice queue 16 (R161). -/
def State.fits (s : State) : Prop :=
  s.host.intake.length ≤ Config.intakeDepth ∧ s.host.holds.length ≤ Config.holdDepth ∧
    s.host.inflight.length ≤ Config.inflightDepth ∧ s.log.window.length ≤ Config.windowDepth ∧
    s.grp.claims.length ≤ Config.claimDepth ∧ s.notes.queue.length ≤ Config.noticeDepth

/-- ROLLBACK and TRAFFIC together hold at most 14 tags, and ROLLBACK has at most 2 OUTSTANDING (R114). -/
def State.creditsKept (s : State) : Prop :=
  s.held .rollback + s.held .traffic ≤ Config.sharedTags ∧ s.rollbackOut ≤ Config.rollbackTags

/-- What holds after reset and after every step: the memory is in its canonical form, no queue or table is overfull,
and the M-port keeps its credits. -/
def State.good (s : State) : Prop := s.mem.wf = true ∧ s.fits ∧ s.creditsKept

/-! ### Rows and what they serve -/

/-- The row that takes a request of this kind from the front of the intake. -/
def admitRow : ReqBody → Instr
  | .write _ _ _ _ => .admitWrite
  | .read _ _ => .admitRead
  | .mark _ .commit => .markCommit
  | .mark _ .abandon => .markAbandon
  | .mark _ .other => .markOtherKind

/-- The admission unit may take the front request: the part is powered, no held entry is marked (R82), and it does not
pause, or the table that was short has freed room since the pause began (R27, R62). -/
abbrev State.takes (s : State) : Prop := s.power = true ∧ s.holdsMarked = false ∧ s.pauseOver = true

/-- The tag and the answer of a row that stands for an M-port response; none for any other row. -/
def answerRow : Instr → Option (MTag × MemAnswer)
  | .lateResponse t a | .preResetResponse t a | .passReadAnswered t a | .passWriteAnswered t a
  | .walkReadAnswered t a | .restoreAnswered t a | .anchorReadAnswered t a | .freshAnchorAnswered t a
  | .scanReadAnswered t a | .recoveryDone t a | .stopAnchorAnswered t a => some (t, a)
  | .biReadDone t raced => some (t, .done raced)
  | .biReadFailed t => some (t, .error 0)
  | .recordWriteDone t | .dataWriteDone t | .anchorWriteDone t | .drainDone t => some (t, .done [])
  | .recordWriteFailed t landed | .recordRetryFailed t landed | .dataWriteFailed t landed
  | .anchorWriteFailed t landed => some (t, .error landed)
  | .hostRequest _ | .admitWrite | .admitRead | .markCommit | .markAbandon | .responseSent | .holdReevaluate
  | .holdTimeout _ _ | .idleExpiry _ | .closingRecordAllocate | .mportGrant | .responseLimitExpiry _ | .anchorRetry
  | .rollbackTakeSlot | .pfwAssert | .pfwDeassert | .drainEnd | .resumeDelayExpiry | .warmReset | .powerOnReset _ _ _
  | .recoveryFinalAnchor | .commandFrame _ _ | .getIdent | .getState | .setLog _ _ | .setRegion _ | .clearRegion _
  | .getRegion _ | .setPolicy _ | .getPolicy | .startFresh | .startRecover | .stop | .resume | .abandonGroup _ _
  | .releaseBroken _ _ | .getGroup _ | .popNotice | .setNoticeMask _ | .getCounters | .clearCounters | .setLock _
  | .powerLoss _ | .markOtherKind => none

/-- The row that stands for a failed answer, no byte landed, of the request a tag serves (R119); none for an anchor WRITE
when no anchor write is in progress. -/
def State.failedAnswer (s : State) (t : MTag) : Option Instr :=
  match (s.tag t).req.ref with
  | .biRead _ => some (.biReadFailed t)
  | .recordWrite _ false => some (.recordWriteFailed t 0)
  | .recordWrite _ true => some (.recordRetryFailed t 0)
  | .anchorWrite =>
    match s.anchorUse with
    | some .running | some .drain => some (.anchorWriteFailed t 0)
    | some .freshFirst | some .freshSecond => some (.freshAnchorAnswered t (.error 0))
    | some .recovery => some (.recoveryDone t (.error 0))
    | some .beforeStop | some .stop => some (.stopAnchorAnswered t (.error 0))
    | none => none
  | .walkRead _ => some (.walkReadAnswered t (.error 0))
  | .restore => some (.restoreAnswered t (.error 0))
  | .scanRead => some (.scanReadAnswered t (.error 0))
  | .anchorRead _ => some (.anchorReadAnswered t (.error 0))
  | .passRead _ _ => some (.passReadAnswered t (.error 0))
  | .passWrite _ _ => some (.passWriteAnswered t (.error 0))
  | .dataWrite _ _ => some (.dataWriteFailed t 0)
  | .dropped | .preReset => some (.preResetResponse t (.error 0))

/-- A row that is a management command (R152). -/
def isCommand : Instr → Bool
  | .getIdent | .getState | .setLog _ _ | .setRegion _ | .clearRegion _ | .getRegion _ | .setPolicy _ | .getPolicy
  | .startFresh | .startRecover | .stop | .resume | .abandonGroup _ _ | .releaseBroken _ _ | .getGroup _ | .popNotice
  | .setNoticeMask _ | .getCounters | .clearCounters | .setLock _ => true
  | _ => false

/-- The management link can take a command: the part is powered and the link is IDLE (R147, R150). -/
abbrev State.linkReady (s : State) : Prop := s.power = true ∧ s.link.state = .idle

/-- A tag is OUTSTANDING with a request of this reference (R113). -/
abbrev State.awaits (s : State) (t : MTag) (r : Ref) : Prop := (s.tag t).state = .outstanding ∧ (s.tag t).req.ref = r

/-! ### What becomes of the front request -/

/-- The admission unit may take the front request `r`, which is no duplicate; `rest` stands behind it in the intake. -/
abbrev State.front (s : State) (r : Request) (rest : List Intake) : Prop :=
  s.takes ∧ s.host.intake = ⟨r, false⟩ :: rest

/-- The front request is refused with a reason (R30). -/
def State.refusedFront (s : State) (r : Request) (rest : List Intake) (why : Reason) : State :=
  { s with host := { s.host with
      intake := rest
      paused := none
      responses := s.host.responses ++ [⟨r.source, r.tag, .refused why, false⟩] } }

/-- The front request joins the hold list with its deadline, or is refused when the list holds 8 entries (R78, R79). -/
def State.heldFront (s : State) (r : Request) (rest : List Intake) (why : HoldReason) : State :=
  if s.host.holds.length < 8 then
    { s with host := { s.host with
        intake := rest
        paused := none
        holds := s.host.holds ++ [⟨r, why, s.now + s.link.policy.holdLimit * 10, none, false⟩] } }
  else s.refusedFront r rest .holdListFull

/-- The front request is held under hold policy HOLD and refused under REFUSE (R78). -/
def State.turnedBack (s : State) (r : Request) (rest : List Intake) (why : HoldReason) (code : Reason) : State :=
  if s.link.policy.holdPolicy = .hold then s.heldFront r rest why else s.refusedFront r rest code

/-- The admission unit pauses with the front request for want of room (R27, R62). -/
def State.pausedFront (s : State) (r : Room) : State := { s with host := { s.host with paused := some ⟨r, false⟩ } }

/-- The front request takes an in-flight entry and hands its memory access over as TRAFFIC, or the admission unit pauses
while the in-flight table is full (R27, R37, R38). -/
def State.passedFront (s : State) (rest : List Intake) (e : Inflight) (q : MReq) : State :=
  if s.host.inflight.length < 32 then
    { s with
      host := { s.host with intake := rest, paused := none, inflight := s.host.inflight ++ [e] }
      mport := { s.mport with trafficQ := s.mport.trafficQ ++ [q] } }
  else s.pausedFront .inFlight

/-- The held request is from a source and touches a line (R39, R84). -/
abbrev Hold.isOn (h : Hold) (source : Source) (line : Nat) : Prop :=
  h.req.source = source ∧ requestLine h.req.body = some line

/-- `h` is the latest entry of a hold list from a source to a line (R84). -/
def IsLatestOn (holds : List Hold) (source : Source) (line : Nat) (h : Hold) : Prop :=
  ∃ older younger, holds = older ++ h :: younger ∧ h.isOn source line ∧ ∀ g ∈ younger, ¬ g.isOn source line

/-- No entry of the hold list is from the source to the line. -/
abbrev State.noneHeldOn (s : State) (source : Source) (line : Nat) : Prop := ∀ h ∈ s.host.holds, ¬ h.isOn source line

/-- A hold list once the entries that satisfy `p` have left it, each departure marking the entries that wait on it by ORDER
(R81, R84). -/
def holdsWithout (p : Hold → Bool) (holds : List Hold) : List Hold :=
  (holds.filter fun h => !p h).map fun h =>
    if (holds.filter p).any fun g => decide (h.reason = .order g.req.source g.req.tag) then { h with marked := true } else h

/-- The line's owner is being rolled back or waits for it (R35, R56). -/
def State.isRollingBack (s : State) (line : Nat) : Prop :=
  ∃ c, s.claimOf line = some c ∧ ((s.slot c.owner).state = .rollbackWait ∨ (s.slot c.owner).state = .rollingBack)

/-- A journaled write of key `k` to a line meets steps 3 to 6 of R60: it joins the OPEN slot `i`, or opens the FREE slot
`i` (`opens`), and its line is the group's with this logged mask, or unclaimed with room in the claim table
(`claims`). -/
def State.mayJournal (s : State) (k : Key) (line : Nat) (i : SlotNo) (opens claims : Bool) (logged : BitVec 64) : Prop :=
  s.bridge = .running ∧ (∃ u, s.classify (lineAddr line) = .journaled u) ∧ k.group ≠ 0 ∧ s.noneHeldOn k.source line ∧
  (if opens then s.findSlot k = none ∧ s.freeSlot = some i
    else s.findSlot k = some i ∧ (s.slot i).state = .opened ∧ (s.slot i).damaged = false) ∧
  (if claims then s.claimOf line = none ∧ s.grp.claims.length < 256 ∧ logged = 0
    else opens = false ∧ ∃ c, s.claimOf line = some c ∧ c.owner = i ∧ c.mask = logged)

/-- From `s`, which is already in the bridge state that follows RUNNING, to `u` the pause of the admission unit, if one stands,
ends and its front request is decided again from the first check: MALFORMED, and else by the bridge state, as a request just
taken (R27, R29, R34, R35, R37, R38, R62, R123, R145). It may pause again with a READ or WRITE that would pass while the
in-flight table is full. -/
def PausedRedecided (s u : State) : Prop :=
  (s.host.paused = none ∨ s.host.intake = [] → u = s) ∧
  ∀ (src : Source) (tag : ReqTag) (body : ReqBody) (dup : Bool) (rest : List Intake), s.host.paused ≠ none →
    s.host.intake = ⟨⟨src, tag, body⟩, dup⟩ :: rest →
    let refused := s.refusedFront ⟨src, tag, body⟩ rest
    let sound : Prop := dup = false ∧ malformed ⟨src, tag, body⟩ = false
    (¬ sound → u = refused .malformed) ∧
    (∀ a len, sound → body = .read a len →
      (s.bridge = .draining → s.isRollingBack (a.toNat / 64) → u = refused .halted) ∧
      (s.bridge = .gated ∨ s.bridge = .faulted ∨ (s.bridge = .draining ∧ ¬ s.isRollingBack (a.toNat / 64)) →
        u = s.passedFront rest ⟨src, tag, .passRead a.toNat len, .queued⟩
          ⟨.passRead src tag, false, a.toNat, len, 0, []⟩)) ∧
    (∀ line mask data g, sound → body = .write line mask data g →
      let cls := s.classify (line.toNat * 64)
      (s.bridge = .gated → u = refused .gated) ∧ (s.bridge = .draining → u = refused .halted) ∧
      (s.bridge = .faulted →
        (cls = .pass → u = s.passedFront rest ⟨src, tag, .passWrite line.toNat mask data, .queued⟩
          ⟨.passWrite src tag, true, line.toNat * 64, 64, mask.setWidth 96, data⟩) ∧
        (cls = .readOnly ∨ cls = .log → u = refused .roRegion) ∧ ∀ p, cls = .journaled p → u = refused .faulted)) ∧
    (∀ g kind, sound → body = .mark g kind →
      (s.bridge = .gated → u = refused .gated) ∧ (s.bridge = .draining → u = refused .halted) ∧
      (s.bridge = .faulted → u = refused .faulted))

/-- From `s` to `u` the bridge enters DRAINING (R123): a noted follow-up is dropped, every held request is refused with HALTED
in list order (R87), and with that done a front request paused before is decided again (the order is the model's, log 47). -/
def DrainEntered (s u : State) : Prop :=
  PausedRedecided { s with
    bridge := .draining
    log := { s.log with followUp := false }
    host := { s.host with
      holds := []
      responses := s.host.responses ++
        s.host.holds.map fun h => ⟨h.req.source, h.req.tag, .refused .halted, false⟩ } } u

/-! ### M-port readiness -/

/-- No RETIRED WRITE shares a byte with the request's span (R112, R118). -/
abbrev State.unfenced (s : State) (q : MReq) : Prop :=
  ∀ t, (s.tag t).state = .retired → (s.tag t).req.write = true →
    (s.tag t).req.addr + (s.tag t).req.len ≤ q.addr ∨ q.addr + q.len ≤ (s.tag t).req.addr

/-- The byte at place `j` of the READ `r` is one that the WRITE `w` selects, so that the WRITE may be changing it (R110). -/
def RacedAt (w r : MReq) (j : Nat) : Prop :=
  j < r.len ∧ w.write = true ∧ w.addr ≤ r.addr + j ∧ r.addr + j < w.addr + w.len ∧
    w.mask.getLsbD (r.addr + j - w.addr) = true

/-- `before` are the entries admitted before the request of this source and tag, which is not yet answered (R39). -/
def State.admittedAfter (s : State) (before : List Inflight) (source : Source) (tag : ReqTag) : Prop :=
  ∃ e younger, s.host.inflight = before ++ e :: younger ∧ e.isLive source tag = true ∧
    ∀ x ∈ before, x.isLive source tag = false

/-- The same-source line order (R39): of the requests admitted before, each of this source to this line has had its access
issued or needs none, and for a WRITE each such READ is answered. -/
def InLineOrder (before : List Inflight) (source : Source) (line : Nat) (isWrite : Bool) : Prop :=
  ∀ e ∈ before, e.source = source → e.work.line = some line →
    (e.stage = .issued ∨ e.stage = .dataIssued ∨ e.stage = .done) ∧
      (isWrite = true → e.work.isRead = true → e.stage = .done)

/-- The read-after-write condition (R40): each WRITE to the line admitted before is answered, and no restore of the line is
issued and unanswered. -/
def State.ReadsAfterWrites (s : State) (before : List Inflight) (line : Nat) : Prop :=
  (∀ e ∈ before, e.work.isWrite = true → e.work.line = some line → e.stage = .done) ∧
    ∀ t, (s.tag t).state = .outstanding → (s.tag t).cls = .rollback → (s.tag t).req.write = true →
      (s.tag t).req.addr / 64 ≠ line

/-! ### Data phases -/

/-- A journaled write of this source and line in FRONTIER_WAIT, admitted after `before`, may begin its data phase: its
record, if it has one, lies wholly behind the durability frontier, the newest durable anchor is ACTIVE, and the same-source
line order holds (R14, R15, R39, R67). -/
def State.MayBeginData (s : State) (before : List Inflight) (source : Source) (line : Nat) (record : Option RecordSpan) :
    Prop :=
  (∀ r, record = some r → r.pos + beforeSlots r.count ≤ s.log.head ∧
    ∀ h ∈ s.log.window, r.pos + beforeSlots r.count ≤ h.pos) ∧
  (∃ a, s.log.newest = some a ∧ a.state = .active) ∧ InLineOrder before source line true

/-- Of the in-flight entries `es`, admitted after `before`, exactly the writes in FRONTIER_WAIT that may begin their data
phase go on to DATA_WRITE, which gives `es'`; `qs` are their data writes, in admission order (R67, R68; the order is the
model's, log 48). -/
inductive DataPhases (s : State) : List Inflight → List Inflight → List Inflight → List MReq → Prop
  | nil {before} : DataPhases s before [] [] []
  | begins {before source tag line mask data slot record es es' qs} :
    s.MayBeginData before source line record →
    DataPhases s (before ++ [⟨source, tag, .journaled line mask data slot record, .frontierWait⟩]) es es' qs →
    DataPhases s before (⟨source, tag, .journaled line mask data slot record, .frontierWait⟩ :: es)
      (⟨source, tag, .journaled line mask data slot record, .dataQueued⟩ :: es')
      (⟨.dataWrite source tag, true, line * 64, 64, mask.setWidth 96, data⟩ :: qs)
  | stays {before e es es' qs} :
    (∀ line mask data slot record, e.work = .journaled line mask data slot record → e.stage = .frontierWait →
      ¬ s.MayBeginData before e.source line record) →
    DataPhases s (before ++ [e]) es es' qs → DataPhases s before (e :: es) (e :: es') qs

/-- From `s` to `t` the conditions of R67 are looked at again: the writes that may begin their data phase enter DATA_WRITE,
their data writes join the TRAFFIC queue, and nothing else changes. -/
def DataPhasesBegin (s t : State) : Prop :=
  ∃ qs, DataPhases s [] s.host.inflight t.host.inflight qs ∧ t = { s with
    host := { s.host with inflight := t.host.inflight }
    mport := { s.mport with trafficQ := s.mport.trafficQ ++ qs } }

/-! ### Frames -/

/-- An M-port answer has freed a tag; every other tag's entry stands. -/
def TagFreed (s t : State) (m : MTag) : Prop := t.tag m = TagEntry.free ∧ ∀ i, i ≠ m → t.tag i = s.tag i

/-- The configuration and the inputs are the same: power, regions, geometry, straps, lock level, policy values, notice
mask, PFW pin, timebase and command queue. -/
def SameSetup (s t : State) : Prop :=
  t.power = s.power ∧ t.regions = s.regions ∧ t.log.geometry = s.log.geometry ∧ t.link.straps = s.link.straps ∧
    t.link.lock = s.link.lock ∧ t.link.policy = s.link.policy ∧ t.notes.mask = s.notes.mask ∧ t.pfwHigh = s.pfwHigh ∧
    t.now = s.now ∧ t.pending = s.pending

/-- Every byte of memory reads the same. -/
def SameMemory (s t : State) : Prop := ∀ a, t.mem.get a = s.mem.get a

/-- Memory is what it was but for the bytes of the WRITE `q` that landed: those take their data (R110). -/
def MemoryTakes (q : MReq) (landed : BitVec 96) (s t : State) : Prop :=
  ∀ a, t.mem.get a =
    if q.selects a = true ∧ landed.getLsbD (a - q.addr) = true then q.data.getD (a - q.addr) 0 else s.mem.get a

/-- From `s` to `m` an answer on tag `t` is taken, before its requester acts on it: the tag is FREE, memory takes the bytes
that landed, an ERROR counts in MEM_ERRORS, and nothing else changes (R110, R113, R116). -/
def AnswerTaken (s m : State) (t : MTag) (a : MemAnswer) : Prop :=
  TagFreed s m t ∧ MemoryTakes (s.tag t).req (landedOf a) s m ∧ m = { s with
    mem := m.mem
    mport := { s.mport with tags := m.mport.tags }
    notes := (if isErrorAnswer a = true then s.count Counters.memError else s).notes }

/-! ### Groups and the bridge -/

/-- From `s` to `t` the OPEN slot `i` enters a closing state with a cause and a waiter: its idle deadline is cleared, the
held writes of its key are refused with GROUP_CLOSING, in list order, and the entries that wait on them by ORDER are
marked; with no write in flight its COMMIT record is due, or it joins the rollback queue (R47, R86, R96, R98). Nothing else
changes: the other held entries keep their reason, deadline and room note. -/
def SlotCloses (s t : State) (i : SlotNo) (st : SlotState) (cause : Cause) (waiter : Option Waiter) : Prop :=
  let ofKey : Hold → Bool := fun h => decide (writeKeyOf h.req = some (s.slot i).key)
  let now : Prop := (s.slot i).inflight = 0
  t.slot i = { s.slot i with state := st, cause := some cause, waiter := waiter, idle := none } ∧
    (∀ j, j ≠ i → t.slot j = s.slot j) ∧
    (t.grp.claims = s.grp.claims ∧ t.grp.walk = s.grp.walk) ∧
    (now → t.grp.queue = s.grp.queue ++ (if st = .rollbackWait then [i] else [])) ∧
    (now → t.log = { s.log with due := s.log.due ++ (if st = .committing then [⟨i, .commit⟩] else []) }) ∧
    (¬ now → t.grp.queue = s.grp.queue ∧ t.log = s.log) ∧
    t.host = { s.host with
      holds := holdsWithout ofKey s.host.holds
      responses := s.host.responses ++
        (s.host.holds.filter ofKey).map fun h => ⟨h.req.source, h.req.tag, .refused .groupClosing, false⟩ } ∧
    t = { s with grp := t.grp, log := t.log, host := t.host }

/-- A journaled write of this in-flight entry has not begun its data phase: it is in BI_READ, REC_WRITE or FRONTIER_WAIT, or
in DATA_WRITE with its data write not issued (R64, R75). -/
abbrev Inflight.uncommitted (e : Inflight) : Prop :=
  (∃ l m d i r, e.work = .journaled l m d i r) ∧
    (e.stage = .biRead ∨ e.stage = .recWrite ∨ e.stage = .frontierWait ∨ e.stage = .dataQueued)

/-- The group slot of a journaled write. -/
def Work.slotOf : Work → Option SlotNo
  | .journaled _ _ _ i _ => some i
  | .passRead _ _ | .passWrite _ _ _ | .mark _ _ => none

/-- From `s` to `t` the bridge enters FAULTED with this detail and position (R145): LOG_FAULTED is the newest notice; no
START, resume delay, held request, waiter, idle deadline, follow-up or anchor retry is left (R47, R88). The held requests are
refused with FAULTED; with that done, a front request paused before is decided again as `PausedRedecided` says, which gives
`r`; then each write whose data phase has not begun (R75) and each waiter are answered FAILED with FAULTED (the order is the
model's, log 29). What waits to be issued for those writes is withdrawn, and so are walk READs; an anchor write handed over
is not (the model's choice, log 49), nor is a walk READ left without a requester by a recovery that has ended (log 54).
RELEASE_BROKEN is answered MEM_ERROR (R107). Tables, queue, walk, log, memory and the M-port's table stand. -/
def EnteredFaulted (s t : State) (d : Detail) (pos : Nat) : Prop :=
  t.bridge = .faulted ∧ t.start = none ∧ t.resumeAt = none ∧ t.host.holds = [] ∧
    (∃ r : State,
      PausedRedecided { s with
        bridge := .faulted
        start := none
        resumeAt := none
        host := { s.host with
          holds := []
          responses := s.host.responses ++
            s.host.holds.map fun h => ⟨h.req.source, h.req.tag, .refused .faulted, false⟩ }
        notes := t.notes } r ∧
      t.host.intake = r.host.intake ∧ t.host.paused = r.host.paused ∧
      t.host.responses = r.host.responses ++
        ((s.host.inflight.filter fun e => decide (e.work.slotOf.isSome = true ∧ e.stage.beforeData = true)).map fun e =>
          ⟨e.source, e.tag, .failed .faulted, true⟩) ++
        (allSlots.filterMap fun i => (s.slot i).waiter.map fun w => ⟨w.source, w.tag, .failed .faulted, true⟩) ∧
      (t.host.inflight = r.host.inflight.map fun e =>
        if (∃ x ∈ s.host.inflight, x.work.slotOf.isSome = true ∧ x.stage.beforeData = true ∧ x.source = e.source ∧
            x.tag = e.tag) ∨ ∃ i w, (s.slot i).waiter = some w ∧ w.source = e.source ∧ w.tag = e.tag
        then { e with stage := .done } else e) ∧
      ∀ c, t.mport.queue c = (r.mport.queue c).filter fun q => !q.ref.cutByFault) ∧
    (∀ e ∈ t.host.inflight, ¬ e.uncommitted) ∧
    (∀ i, t.slot i = { s.slot i with
      idle := none
      waiter := none
      inflight := (s.slot i).inflight -
        (s.host.inflight.filter fun e => decide (e.work.slotOf = some i ∧ e.stage.beforeData = true)).length }) ∧
    t.grp = { s.grp with slots := t.grp.slots } ∧
    t.log = { s.log with
      followUp := false
      anchorOp := match s.log.anchorOp with | .retryWait _ _ _ => .idle | op => op } ∧
    (∀ c, ∀ q ∈ t.mport.queue c, q.ref.cutByFault = false) ∧
    (∀ ps, s.link.state = .executing 0x0D ps →
      t.link = { s.link with state := .idle, buffer := .answer .memError [] }) ∧
    ((∀ ps, s.link.state ≠ .executing 0x0D ps) → t.link = s.link) ∧
    (∃ n, t.notes.queue.getLast? = some n ∧ n.kind = .logFaulted ∧ n.detail = d ∧ n.position = pos) ∧
    t = { s with
      bridge := .faulted
      start := none
      resumeAt := none
      host := t.host
      grp := t.grp
      log := t.log
      mport := { s.mport with logQ := t.mport.logQ, rollbackQ := t.mport.rollbackQ, trafficQ := t.mport.trafficQ }
      link := t.link
      notes := t.notes }

/-! ### The answer of a journaled write -/

/-- The held writes of slot `i`'s key are refused with a reason, in list order, and the entries that wait on them by ORDER
are marked (R84, R86). -/
def State.withWritesRefused (s : State) (i : SlotNo) (why : Reason) : State :=
  let ofKey : Hold → Bool := fun h => decide (writeKeyOf h.req = some (s.slot i).key)
  { s with host := { s.host with
    holds := holdsWithout ofKey s.host.holds
    responses := s.host.responses ++
      (s.host.holds.filter ofKey).map fun h => ⟨h.req.source, h.req.tag, .refused why, false⟩ } }

/-- Slot `i` with another content. -/
def State.withSlot (s : State) (i : SlotNo) (g : GroupSlot) : State :=
  { s with grp := { s.grp with slots := s.grp.slots.set i g } }

/-- A journaled write of slot `i` is answered: its in-flight entry is done and the slot's in-flight count falls (R46). -/
def State.withWriteAnswered (s : State) (source : Source) (tag : ReqTag) (i : SlotNo) (a : Answer) : State :=
  ({ s with host := { s.host with
    inflight := s.host.inflight.map fun e => if e.source = source ∧ e.tag = tag then { e with stage := .done } else e
    responses := s.host.responses ++ [⟨source, tag, a, true⟩] } } : State).withSlot i
    { s.slot i with inflight := (s.slot i).inflight - 1 }

/-- From `s` to `t` slot `i`'s closing step is taken, which needs in-flight count 0 and a bridge that is not FAULTED (R46,
R146): of a COMMITTING slot the COMMIT record is due (R96), or, when the group is damaged, the slot is in ROLLBACK_WAIT with
cause DAMAGED and its waiter kept, the held writes of its key are refused with GROUP_CLOSING (R86), and it joins the rollback
queue; a ROLLBACK_WAIT slot joins the queue (R98). Otherwise nothing changes. -/
def ClosingStepTaken (s t : State) (i : SlotNo) : Prop :=
  let g := s.slot i
  let may : Prop := g.inflight = 0 ∧ s.bridge ≠ .faulted
  let queued : State → State := fun u => { u with grp := { u.grp with queue := u.grp.queue ++ [i] } }
  (may → g.state = .committing → g.damaged = false →
    t = { s with log := { s.log with due := s.log.due ++ [⟨i, .commit⟩] } }) ∧
  (may → g.state = .committing → g.damaged = true →
    t = queued ((s.withWritesRefused i .groupClosing).withSlot i
      { g with state := .rollbackWait, cause := some .damaged })) ∧
  (may → g.state = .rollbackWait → t = queued s) ∧
  (¬ may ∨ (g.state ≠ .committing ∧ g.state ≠ .rollbackWait) → t = s)

/-- From `s` to `t` the damaged flag of slot `i` is set, whatever its state; the held writes of an OPEN slot's key are refused
with DAMAGED (R49, R86). -/
def SlotDamaged (s t : State) (i : SlotNo) : Prop :=
  let hurt : State := s.withSlot i { s.slot i with damaged := true }
  ((s.slot i).state = .opened → t = hurt.withWritesRefused i .damaged) ∧ ((s.slot i).state ≠ .opened → t = hurt)

/-! ### Records and closings -/

/-- The volatile tail is the lowest first position among the slots not FREE, or the head (R3). -/
def State.IsVolatileTail (s : State) (p : Nat) : Prop :=
  (∀ i, (s.slot i).state ≠ .free → p ≤ (s.slot i).first) ∧
    ((∃ i, (s.slot i).state ≠ .free ∧ p = (s.slot i).first) ∨ ((∀ i, (s.slot i).state = .free) ∧ p = s.log.head))

/-- From `s` to `m` the record `h`, whose write tag `t` carries, has become durable (R14, R52, R66): memory takes it, it
leaves the append window, RECORDS counts it, and a BEFORE counts its bytes, widens its line's logged mask by its span and
takes its write to FRONTIER_WAIT. -/
def RecordDurable (s m : State) (t : MTag) (h : Header) : Prop :=
  TagFreed s m t ∧ MemoryTakes (s.tag t).req fullMask s m ∧ m = { s with
    mem := m.mem
    mport := { s.mport with tags := m.mport.tags }
    log := { s.log with window := s.log.window.filter fun r => decide (r.pos ≠ h.pos) }
    notes := { s.notes with counters := { s.notes.counters with
      records := min (s.notes.counters.records + 1) 4294967295
      loggedBytes := if h.kind = .before then min (s.notes.counters.loggedBytes + h.count) 4294967295
        else s.notes.counters.loggedBytes } }
    grp := { s.grp with claims := if h.kind = .before then s.grp.claims.map fun c =>
      if c.line = h.line then { c with mask := c.mask ||| spanMask 64 h.first h.count } else c else s.grp.claims }
    host := { s.host with inflight := s.host.inflight.map fun e =>
      if h.kind = .before ∧ e.stage ≠ .done ∧ ∃ o, s.ownerOf h.pos = some o ∧ o.source = e.source ∧ o.tag = e.tag
      then { e with stage := .frontierWait } else e } }

/-- From `m` to `n` the closing record of slot `i` completes (R16): a COMMITTING group is committed (R97), a ROLLING_BACK
one rolled back (R104, R141), a BROKEN one released and RELEASE_BROKEN answered OK (R107). The slot is FREE, its claims are
gone, its waiter is answered; counters and notice follow, with the closing cause, the record count and the closing
record's position (R109); the held entries that wait on its lines, on a slot, or on claim space of a full table are marked
(R57, R81; log 31, 42); the volatile tail is recomputed, and in RUNNING, when it lies above the persisted tail, an ACTIVE
anchor is written or a follow-up noted (R21). -/
def GroupEnded (m n : State) (i : SlotNo) : Prop :=
  let g := m.slot i
  let c := m.notes.counters
  let ofSlot : Nat → Bool := fun l => m.grp.claims.any fun x => decide (x.owner = i) && decide (x.line = l)
  let wakes : Hold → Bool := fun x =>
    match x.reason with
    | .line l | .rollbackRead l => ofSlot l
    | .groupSlot => true
    | .claimSpace => decide (256 ≤ m.grp.claims.length) && m.grp.claims.any fun x => decide (x.owner = i)
    | .order _ _ | .logSpace => false
  let waiter : Option Waiter := if g.state = .broken then none else g.waiter
  let answer : Waiter → Answer := fun w =>
    if g.state = .rollingBack ∧ w.kind = .commit then .failed .damaged else .done []
  let kind : NoticeKind :=
    if g.state = .committing then .groupCommitted else if g.state = .rollingBack then .groupRolledBack else .groupReleased
  let detail : Detail := if g.state = .broken then .none else (g.cause.map Detail.cause).getD .none
  let counted : State := { m with notes := { m.notes with counters := { c with
    committed := if g.state = .committing then min (c.committed + 1) 4294967295 else c.committed
    rolledBack := if g.state = .rollingBack then min (c.rolledBack + 1) 4294967295 else c.rolledBack } } }
  let due : Bool := decide (m.bridge = .running) && decide (m.log.persistedTail < n.log.volatileTail)
  let writes : Bool := due && decide (m.log.anchorOp = .idle)
  let a : Anchor :=
    ⟨(m.log.newest.map (·.serial)).getD 0 + 1, m.log.gen, .active, m.geo.exponent, n.log.volatileTail⟩
  n.IsVolatileTail n.log.volatileTail ∧ n = { m with
    start := if g.state = .rollingBack ∧ m.bridge = .recovering
      then m.start.map fun o => { o with rolledBack := o.rolledBack + 1 } else m.start
    host := { m.host with
      holds := m.host.holds.map fun x => { x with marked := x.marked || wakes x }
      inflight := m.host.inflight.map fun e =>
        if ∃ w, waiter = some w ∧ e.source = w.source ∧ e.tag = w.tag then { e with stage := .done } else e
      responses := m.host.responses ++ (waiter.map fun w => ⟨w.source, w.tag, answer w, true⟩).toList }
    grp := { m.grp with
      slots := m.grp.slots.set i GroupSlot.free
      claims := m.grp.claims.filter fun x => decide (x.owner ≠ i) }
    log := { m.log with
      volatileTail := n.log.volatileTail
      anchorOp := if writes = true then .writing m.nextCopy a .running else m.log.anchorOp
      followUp := m.log.followUp || (due && !writes) }
    mport := { m.mport with logQ := m.mport.logQ ++ if writes = true
      then [⟨.anchorWrite, true, m.geo.anchorAddr m.nextCopy, 64, spanMask 96 0 64, a.bytes⟩] else [] }
    link := if g.state = .broken then { m.link with state := .idle, buffer := .answer .ok [] } else m.link
    notes := (counted.post kind g.key detail g.records (g.closing.getD 0)).notes }

/-- From `m` to `n` the closing records of these slots complete, one after the other. -/
inductive GroupsEnd : List SlotNo → State → State → Prop
  | nil {m} : GroupsEnd [] m m
  | cons {m n k i is} : GroupEnded m n i → GroupsEnd is n k → GroupsEnd (i :: is) m k

/-- A place of the append window that no due closing record takes passes to the admission unit: the held entries that
stayed for want of one are marked and a pause for one ends (R12, R62, R81). -/
def State.withPlacePassed (s : State) : State :=
  if s.log.window.length + s.log.due.length < 8 then
    { s with host := { s.host with
      holds := s.host.holds.map fun h => if h.room = some .window then { h with marked := true } else h
      paused := s.host.paused.map fun p => if p.short = .window then { p with freed := true } else p } }
  else s

/-- From `m` to `n` an anchor is the newest durable one (R20): the persisted tail takes its tail, the failure count is 0;
when free slots rise, the entries held for LOG_SPACE are marked (R11) and the low-water comparison is made (R24). -/
def AnchorAdopted (m n : State) (c : Copy) (a : Anchor) : Prop :=
  let t : State := { m with log := { m.log with
    newest := some ⟨c, a.serial, a.state, a.tail⟩, persistedTail := a.tail, failures := 0, anchorOp := .idle } }
  let rises : Prop := m.freeSlots < t.freeSlots
  let low : Prop := t.freeSlots < m.link.policy.lowWater
  (¬ rises → n = t) ∧ (rises → n = { t with
    host := { m.host with
      holds := m.host.holds.map fun h => if h.reason = .logSpace then { h with marked := true } else h }
    log := { t.log with lowArmed := decide (¬ low) }
    notes := (if low ∧ m.log.lowArmed = true then t.post .logLow Key.zero .none t.freeSlots m.log.head else t).notes })

/-! ### Recovery's stop -/

/-- A request of the rollback engine that the engine has no more use for: its answer reaches no requester (R119, R121). -/
def MReq.stale (q : MReq) : MReq := if q.ref.ofRollback = true then { q with ref := .dropped } else q

/-- The same of a tag's entry. -/
def TagEntry.stale (e : TagEntry) : TagEntry := if e.state = .outstanding then { e with req := e.req.stale } else e

/-- The M-port after the rollback engine has lost its use for every request of it, under a tag or in a queue. -/
def MPort.stale (p : MPort) : MPort :=
  { p with
    tags := p.tags.map TagEntry.stale
    logQ := p.logQ.map MReq.stale
    rollbackQ := p.rollbackQ.map MReq.stale
    trafficQ := p.trafficQ.map MReq.stale }

/-- Recovery returns the bridge to GATED with RECOVERY_FAILED: the tables are discarded, the positions and the M-port's table
and queues stay (R121, R133, R138, R139). -/
def State.backInGated (s : State) (d : Detail) (pos : Nat) : State :=
  { s with
    bridge := .gated
    start := none
    grp := ⟨Vector.replicate 4 GroupSlot.free, [], [], none⟩
    log := { s.log with window := [], due := [], anchorOp := .idle, followUp := false }
    mport := s.mport.stale
    notes := (s.post .recoveryFailed Key.zero d 0 pos).notes }

/-- The stop point of a recovery that is to stop (R133): no record is in the append window, no restore is unanswered, and
no anchor READ, scan READ or READ of the record at the walk position is outstanding (log 18). -/
def State.AtStopPoint (s : State) : Prop :=
  s.log.window = [] ∧ (∀ q ∈ s.mport.rollbackQ, q.ref ≠ .restore) ∧
    ∀ t, (s.tag t).state = .outstanding →
      (s.tag t).req.ref ≠ .restore ∧ (s.tag t).req.ref ≠ .scanRead ∧ (∀ c, (s.tag t).req.ref ≠ .anchorRead c) ∧
        ∀ w, s.grp.walk = some w → w.phase = .reading → (s.tag t).req.ref ≠ .walkRead w.pos

/-- What a step that leaves `m` gives when recovery may be about to stop: at the stop point the bridge is back in GATED
with RECOVERY_FAILED POWER, and before it nothing changes (R133). -/
def StopPointMet (m u : State) : Prop :=
  let stops : Prop := m.bridge = .recovering ∧ (∃ o, m.start = some o ∧ o.stopping = true) ∧ m.AtStopPoint
  (stops → u = m.backInGated .power 0) ∧ (¬ stops → u = m)

/-! ### The walk -/

/-- From `s` to `t` the walk `w` fails at a position (R105): its slot is BROKEN with its claims kept, its waiter is answered
FAILED with BROKEN, GROUP_BROKEN is posted, the reads held for the rollback of its lines are marked, nothing of the engine
waits to be issued, and the engine is idle unless a request of it is still outstanding. That a restore handed over and not
issued is withdrawn too is the model's choice (log 51). -/
def WalkFails (s t : State) (w : Walk) (d : Detail) (pos : Nat) : Prop :=
  let g := s.slot w.slot
  let claimed : Nat → Bool := fun l => s.grp.claims.any fun x => decide (x.owner = w.slot) && decide (x.line = l)
  t = { s with
    grp := { s.grp with
      slots := s.grp.slots.set w.slot { g with state := .broken, waiter := none }
      walk := if ∃ i, (s.tag i).state = .outstanding ∧ (s.tag i).req.ref.ofRollback = true
        then some { w with phase := .ending, ahead := .none } else none }
    host := { s.host with
      holds := s.host.holds.map fun h =>
        match h.reason with
        | .rollbackRead l => { h with marked := h.marked || claimed l }
        | .order _ _ | .groupSlot | .line _ | .claimSpace | .logSpace => h
      inflight := s.host.inflight.map fun e =>
        if ∃ x, g.waiter = some x ∧ e.source = x.source ∧ e.tag = x.tag then { e with stage := .done } else e
      responses := s.host.responses ++ (g.waiter.map fun x => ⟨x.source, x.tag, .failed .broken, true⟩).toList }
    mport := { s.mport with
      logQ := s.mport.logQ.filter fun q => !q.ref.ofRollback
      rollbackQ := s.mport.rollbackQ.filter fun q => !q.ref.ofRollback
      trafficQ := s.mport.trafficQ.filter fun q => !q.ref.ofRollback }
    notes := (s.post .groupBroken g.key d g.records pos).notes }

/-- From `s` to `t` the walk `w` fails at a position; in RECOVERING, RECOVERY_FAILED follows with the same detail and position
and the bridge enters FAULTED (R105, R143). -/
def WalkEndsBroken (s t : State) (w : Walk) (d : Detail) (pos : Nat) : Prop :=
  (s.bridge ≠ .recovering → WalkFails s t w d pos) ∧
    (s.bridge = .recovering → ∃ v, WalkFails s v w d pos ∧ EnteredFaulted v t .recovery pos ∧
      t.notes = ((v.post .recoveryFailed Key.zero d 0 pos).post .logFaulted Key.zero .recovery 0 pos).notes)

/-- A walk failed before: its engine is idle once no request of it is outstanding (R105). -/
def EngineEnds (m u : State) : Prop :=
  let waits : Prop := ∃ i, (m.tag i).state = .outstanding ∧ (m.tag i).req.ref.ofRollback = true
  (waits → u = m) ∧ (¬ waits → u = { m with grp := { m.grp with walk := none } })

/-- From `m` to `u` the record at the position of the walk `w`, read as `bytes`, is tested and taken (R100 to R103, R125). A
BEFORE that passes is restored, with the next record read ahead unless it is the group's first or the bridge is DRAINING; a
VOID is passed over, to the next record or, for the first, to the due RESTORED record; in DRAINING the walk stops at the
next record. A failed test fails the walk with CHECK or MISMATCH. -/
def RecordConsidered (m u : State) (w : Walk) (bytes : List Byte) : Prop :=
  let h := RawHeader.parse bytes
  let g := m.slot w.slot
  let passes : Prop := h.checkPasses bytes = true ∧ (h.kind = 1 ∨ h.kind = 2) ∧ Key.ofByte h.keyByte = g.key ∧
    h.pos = w.pos % 2 ^ 64 ∧ h.gen = m.log.gen ∧
    (1 ≤ h.count ∧ h.count ≤ 64 ∧ h.first + h.count ≤ 64 ∧ h.slots = if h.count ≤ 32 then 2 else 3) ∧
    (if w.pos = g.first then h.back = 0 else h.back ≠ 0 ∧ g.first + h.back ≤ w.pos)
  let next := w.pos - h.back
  let restore : MReq := ⟨.restore, true, h.line * 64, 64, spanMask 96 h.first h.count,
    List.replicate h.first 0 ++ (bytes.drop 32).take h.count⟩
  let read : MReq := ⟨.walkRead next, false, m.geo.slotAddr next, 32 * min 3 (m.geo.slotsLeft next), 0, []⟩
  let goes : List MReq → Option Walk → State := fun qs walk => { m with
    mport := { m.mport with rollbackQ := m.mport.rollbackQ ++ qs }
    grp := { m.grp with walk := walk } }
  (passes → h.kind = 1 →
    (h.back = 0 ∨ m.bridge = .draining → u = goes [restore] (some ⟨w.slot, w.pos, .restoring h.back, .none⟩)) ∧
    (h.back ≠ 0 → m.bridge ≠ .draining → u = goes [restore, read] (some ⟨w.slot, w.pos, .restoring h.back, .pending⟩))) ∧
  (passes → h.kind = 2 →
    (h.back = 0 → u = { goes [] none with log := { m.log with due := m.log.due ++ [⟨w.slot, .restored⟩] } }) ∧
    (h.back ≠ 0 → m.bridge = .draining → u = goes [] (some ⟨w.slot, next, .suspended, .none⟩)) ∧
    (h.back ≠ 0 → m.bridge ≠ .draining → u = goes [read] (some ⟨w.slot, next, .reading, .none⟩))) ∧
  (h.checkPasses bytes = false → WalkEndsBroken m u w .check w.pos) ∧
  (h.checkPasses bytes = true → ¬ passes → WalkEndsBroken m u w .mismatch w.pos)

/-- From `m` to `u` the walk `w` takes up the record at a position (R101, R132): it is read, unless it was read ahead, and
then its answer is awaited, or taken with its tests, or its failure taken. -/
def RecordTakenUp (m u : State) (w : Walk) (pos : Nat) : Prop :=
  let reads : List MReq → State := fun qs => { m with
    mport := { m.mport with rollbackQ := m.mport.rollbackQ ++ qs }
    grp := { m.grp with walk := some ⟨w.slot, pos, .reading, .none⟩ } }
  (w.ahead = .none →
    u = reads [⟨.walkRead pos, false, m.geo.slotAddr pos, 32 * min 3 (m.geo.slotsLeft pos), 0, []⟩]) ∧
  (w.ahead = .pending → u = reads []) ∧
  (∀ bytes, w.ahead = .kept bytes → RecordConsidered m u ⟨w.slot, pos, .reading, .none⟩ bytes) ∧
  (w.ahead = .keptError → WalkEndsBroken m u ⟨w.slot, pos, .reading, .none⟩ .memError pos)

end Sys2Proof.Machine
end

