-- ==== Sys2Proof/Certificates/Slice0/Obligations.lean ====
section
/-! DEFINITION. Obligations: the statements for the provers. A statement about a row says what state the row leaves, for
every state and operands that meet its hypotheses. -/

open Sys2Proof Sys2Proof.Machine

/-! ### The block as a whole -/

/-- A step takes the command at the front of the queue and runs it on the state with the queue's rest. -/
def Obligations.StepRunsFrontCommand : Prop :=
  ∀ (s : State) (c : Instr) (rest : List Instr), s.pending = c :: rest → step s = exec c { s with pending := rest }

/-- On an empty queue a powered part lets 1 µs of the timebase pass: the idle deadlines of OPEN slots run in RUNNING and
stand in every other bridge state (R47), and nothing else changes. That the empty queue is the tick is the model's
choice (log 3). -/
def Obligations.IdleStepTicks : Prop :=
  ∀ s : State, s.power = true → s.pending = [] →
    ∃ t, step s = .next t ∧ t = { s with now := s.now + 1, grp := { s.grp with slots := t.grp.slots } } ∧
      ∀ i, t.slot i =
        if s.bridge = .running ∧ (s.slot i).state = .opened
        then { s.slot i with idle := (s.slot i).idle.map fun n => n - 1 } else s.slot i

/-- The state after power-on reset is good (see `State.good`). -/
def Obligations.ResetIsGood : Prop := State.reset.good

/-- Every step from a good state leaves a good state: memory in its canonical form, no queue or table overfull
(R12, R26, R27, R50, R77, R161), and the credits of ROLLBACK and TRAFFIC kept (R114). -/
def Obligations.StepKeepsGood : Prop := ∀ s t : State, s.good → step s = .next t → t.good

/-- A part without supply does nothing until a power-on reset (the model's choice, log 8). -/
def Obligations.PoweredOffIsInert : Prop :=
  ∀ (c : Instr) (s : State), s.power = false → (∀ st b l, c ≠ .powerOnReset st b l) → exec c s = .next s

/-- Memory changes only through the M-port (R110): an M-port response changes nothing, or the bytes of its tag's WRITE
that landed; any other row but a power event changes no byte; at a power event only bytes that an issued and unanswered
WRITE selects may change. -/
def Obligations.MemoryChangesOnlyThroughMport : Prop :=
  ∀ (c : Instr) (s t : State), s.mem.wf = true → exec c s = .next t →
    match answerRow c with
    | some (m, a) =>
      SameMemory s t ∨ ((s.tag m).state ≠ .free ∧ MemoryTakes (s.tag m).req (landedOf a) s t)
    | none =>
      ∀ x, t.mem.get x ≠ s.mem.get x →
        ((∃ st b l, c = .powerOnReset st b l) ∨ ∃ l, c = .powerLoss l) ∧
          ∃ m, (s.tag m).state ≠ .free ∧ (s.tag m).req.selects x = true

/-- Each part of the configuration changes only by the commands that own it (R31, R32, R153 to R155, R159), sent by
their own rows or in a frame with their code, and by a power event; the straps are sampled by POWER_ON_RESET alone
(R147); the lock level falls at a power event alone (R153); the PFW level follows its own rows; no row but a power event
touches the timebase, and none the command queue. -/
def Obligations.SetupChangesOnlyByItsCommands : Prop :=
  ∀ (c : Instr) (s t : State), exec c s = .next t →
    let power : Prop := (∃ st b l, c = .powerOnReset st b l) ∨ ∃ l, c = .powerLoss l
    let frame : Nat → Prop := fun code => ∃ a bs, c = .commandFrame a bs ∧ field bs 0 1 = code
    (t.regions ≠ s.regions → power ∨ frame 0x04 ∨ frame 0x05 ∨ (∃ p, c = .setRegion p) ∨ ∃ n, c = .clearRegion n) ∧
    (t.log.geometry ≠ s.log.geometry → power ∨ frame 0x03 ∨ ∃ b k, c = .setLog b k) ∧
    (t.link.policy ≠ s.link.policy → power ∨ frame 0x07 ∨ ∃ p, c = .setPolicy p) ∧
    (t.notes.mask ≠ s.notes.mask → power ∨ frame 0x10 ∨ ∃ n, c = .setNoticeMask n) ∧
    (t.link.lock ≠ s.link.lock → power ∨ ((frame 0x13 ∨ ∃ n, c = .setLock n) ∧ s.link.lock < t.link.lock)) ∧
    (t.link.straps ≠ s.link.straps → ∃ st b l, c = .powerOnReset st b l) ∧
    (t.pfwHigh ≠ s.pfwHigh → (∃ st b l, c = .powerOnReset st b l) ∨ c = .pfwAssert ∨ c = .pfwDeassert) ∧
    (t.now ≠ s.now → power) ∧
    t.pending = s.pending

/-! ### The management link -/

/-- A command whose parameters are in range and whose level is locked is answered LOCKED and changes nothing
(R152, R153). The statements about the commands that no level blocks ask nothing of the level. -/
def Obligations.LockBlocksItsCommands : Prop :=
  ∀ s : State, s.linkReady →
    (∀ b k, decodeGeometry b k ≠ none → 1 ≤ s.link.lock.val → exec (.setLog b k) s = .next (s.answerLink .locked [])) ∧
    (1 ≤ s.link.lock.val → exec .startFresh s = .next (s.answerLink .locked [])) ∧
    (∀ p, RegionParams.decode p ≠ none → 2 ≤ s.link.lock.val →
      exec (.setRegion p) s = .next (s.answerLink .locked [])) ∧
    (∀ n, n < 8 → 2 ≤ s.link.lock.val → exec (.clearRegion n) s = .next (s.answerLink .locked [])) ∧
    (∀ p, PolicyParams.decode p ≠ none → s.link.lock.val = 3 →
      exec (.setPolicy p) s = .next (s.answerLink .locked [])) ∧
    (∀ a b, decodeKey a b ≠ none → s.link.lock.val = 3 →
      exec (.abandonGroup a b) s = .next (s.answerLink .locked []) ∧
        exec (.releaseBroken a b) s = .next (s.answerLink .locked [])) ∧
    (s.link.lock.val = 3 → exec .clearCounters s = .next (s.answerLink .locked []))

/-- The read-out commands are answered at once by their layouts and change nothing but the answer: GET_STATE with its 44
bytes and GET_GROUP with its 40 (R59, R158, section 12.4), GET_IDENT, GET_REGION and GET_POLICY (R32, R154, R158, section
12.3), GET_COUNTERS (R167); an index or slot number out of range is answered RANGE. Three points are the model's: a
number wider than its field shows its low bytes (log 22), the idle ticks of GET_GROUP are the whole milliseconds left,
rounded down (log 23; R47 and R59 say only whole milliseconds), and free slots read 0 where a SET_LOG in GATED has made
R3's difference negative (log 50). -/
def Obligations.ReadOutReplies : Prop :=
  ∀ s : State, s.linkReady →
    (∃ d, exec .getState s = .next (s.answerLink .ok d) ∧ d.length = 44 ∧
    field d 0 1 = s.bridge.code ∧ field d 1 1 = s.link.lock.val ∧
    field d 2 1 = (if s.pfwAsserted then 1 else 0) + (if s.anchorClean then 2 else 0) ∧
    field d 3 1 = s.slotsInUse % 256 ∧ field d 4 2 = s.grp.claims.length % 65536 ∧
    field d 6 1 = s.host.holds.length % 256 ∧ field d 7 1 = s.grp.queue.length % 256 ∧
    field d 8 1 = s.notes.queue.length % 256 ∧ field d 9 3 = 0 ∧ field d 12 4 = s.log.gen % 2 ^ 32 ∧
    field d 16 8 = s.log.head % 2 ^ 64 ∧ field d 24 8 = s.log.volatileTail % 2 ^ 64 ∧
    field d 32 8 = s.log.persistedTail % 2 ^ 64 ∧ field d 40 4 = s.freeSlots % 2 ^ 32) ∧
    exec .getIdent s = .next (s.answerLink .ok [0x18, 0x24, 0x01]) ∧
    (∀ n : Fin 8, ∃ d, exec (.getRegion n.val) s = .next (s.answerLink .ok d) ∧ d.length = 20 ∧ field d 0 1 = n.val ∧
      field d 1 1 = (if (s.regions[n]).valid then 1 else 0) ∧ field d 2 8 = (s.regions[n]).base % 2 ^ 64 ∧
      field d 10 8 = (s.regions[n]).size % 2 ^ 64 ∧ field d 18 1 = (s.regions[n]).cls.code ∧
      field d 19 1 = (s.regions[n]).policy.code) ∧
    (∀ n, 8 ≤ n → exec (.getRegion n) s = .next (s.answerLink .range [])) ∧
    (∃ d, exec .getPolicy s = .next (s.answerLink .ok d) ∧ d.length = 14 ∧
      field d 0 1 = (if s.link.policy.holdPolicy = .hold then 1 else 2) ∧
      field d 1 2 = s.link.policy.holdLimit % 65536 ∧ field d 3 2 = s.link.policy.idleLimit % 65536 ∧
      field d 5 1 = (if s.link.policy.idleAction = .commit then 1 else 2) ∧
      field d 6 4 = s.link.policy.lowWater % 2 ^ 32 ∧
      field d 10 1 = (if s.link.policy.resumePolicy = .auto then 1 else 2) ∧
      field d 11 1 = s.link.policy.resumeDelay % 256 ∧
      field d 12 1 = (if s.link.policy.polarity = .activeLow then 1 else 2) ∧ field d 13 1 = s.notes.mask.toNat) ∧
    (∀ i : SlotNo, ∃ d, exec (.getGroup i.val) s = .next (s.answerLink .ok d) ∧ d.length = 40 ∧ field d 0 1 = i.val ∧
      field d 1 1 = (s.slot i).state.code ∧
      field d 2 1 = (s.slot i).key.source.val * 16 + (s.slot i).key.group.val ∧
      field d 3 1 = (if (s.slot i).damaged then 1 else 0) + (if (s.slot i).waiter.isSome then 2 else 0) +
        (if (s.slot i).idle.isSome then 4 else 0) + (if (s.slot i).closing.isSome then 8 else 0) ∧
      field d 4 1 = ((s.slot i).cause.map Cause.code).getD 0 ∧
      field d 5 1 = ((s.slot i).waiter.map fun w => w.source.val).getD 0 ∧
      field d 6 1 = ((s.slot i).waiter.map fun w => w.tag.val).getD 0 ∧
      field d 7 1 = (s.slot i).inflight % 256 ∧ field d 8 2 = (s.slot i).claims % 65536 ∧
      field d 10 2 = (s.slot i).idle.getD 0 / 1000 % 65536 ∧ field d 12 4 = (s.slot i).records % 2 ^ 32 ∧
      field d 16 8 = (s.slot i).first % 2 ^ 64 ∧ field d 24 8 = (s.slot i).newest % 2 ^ 64 ∧
      field d 32 8 = (s.slot i).closing.getD 0 % 2 ^ 64) ∧
    (∀ n, 4 ≤ n → exec (.getGroup n) s = .next (s.answerLink .range [])) ∧
    ∃ d, exec .getCounters s = .next (s.answerLink .ok d) ∧ d.length = 28 ∧
      field d 0 4 = s.notes.counters.committed % 2 ^ 32 ∧ field d 4 4 = s.notes.counters.rolledBack % 2 ^ 32 ∧
      field d 8 4 = s.notes.counters.records % 2 ^ 32 ∧ field d 12 4 = s.notes.counters.loggedBytes % 2 ^ 32 ∧
      field d 16 4 = s.notes.counters.refusals % 2 ^ 32 ∧ field d 20 4 = s.notes.counters.holdTimeouts % 2 ^ 32 ∧
      field d 24 4 = s.notes.counters.memErrors % 2 ^ 32

/-- SET_LOG by its checks in their order: RANGE, LOCKED, STATE outside GATED, OVERLAP with a valid region; a command
that passes sets the geometry, is answered OK and changes nothing else (R1, R152, R155). -/
def Obligations.SetLogAnswered : Prop :=
  ∀ (s : State) (b k : Nat), s.linkReady →
    let inRange : Prop := 7 ≤ k ∧ k ≤ 21 ∧ b % 4096 = 0 ∧ b + 128 + 32 * 2 ^ k ≤ 2 ^ 36
    let overlaps : Prop := ∃ i : Fin 8, (s.regions[i]).valid = true ∧ (s.regions[i]).base < b + 128 + 32 * 2 ^ k ∧
      b < (s.regions[i]).base + (s.regions[i]).size
    (¬ inRange → exec (.setLog b k) s = .next (s.answerLink .range [])) ∧
    (inRange → 1 ≤ s.link.lock.val → exec (.setLog b k) s = .next (s.answerLink .locked [])) ∧
    (inRange → s.link.lock.val = 0 → s.bridge ≠ .gated → exec (.setLog b k) s = .next (s.answerLink .state [])) ∧
    (inRange → s.link.lock.val = 0 → s.bridge = .gated → overlaps →
      exec (.setLog b k) s = .next (s.answerLink .overlap [])) ∧
    (inRange → s.link.lock.val = 0 → s.bridge = .gated → ¬ overlaps →
      exec (.setLog b k) s = .next ({ s with log := { s.log with geometry := some ⟨b, k⟩ } }.answerLink .ok []))

/-- SET_REGION by its checks in their order: RANGE, field by field; LOCKED at level 2 and 3; BUSY unless the bridge is GATED
or it is RUNNING with every slot FREE; OVERLAP with another valid entry or the log area; otherwise the entry of the index
is valid with the base, the size, and the class and policy of the codes (classes 1 to 3, policies 1 and 2, section 12.3),
and nothing else changes. CLEAR_REGION by its checks: RANGE above 7, LOCKED, BUSY, NOT_FOUND for an invalid entry; otherwise
the entry is invalid and keeps its other fields (R31, R32, R153, R155). -/
def Obligations.RegionCommands : Prop :=
  ∀ s : State, s.linkReady →
    let free : Prop := s.bridge = .gated ∨ (s.bridge = .running ∧ ∀ j, (s.slot j).state = .free)
    (∀ p : RegionParams,
      let inRange : Prop := p.index < 8 ∧ p.base % 4096 = 0 ∧ p.size % 4096 = 0 ∧ 4096 ≤ p.size ∧ p.size ≤ 2 ^ 34 ∧
        p.base + p.size ≤ 2 ^ 36 ∧ 1 ≤ p.cls ∧ p.cls ≤ 3 ∧ 1 ≤ p.policy ∧ p.policy ≤ 2
      (¬ inRange → exec (.setRegion p) s = .next (s.answerLink .range [])) ∧
      ∀ i : Fin 8, inRange → i.val = p.index →
        let r : Region := ⟨true, p.base, p.size,
          if p.cls = 1 then .journaled else if p.cls = 2 then .readOnly else .pass,
          if p.policy = 1 then .refuse else .passUnlogged⟩
        let overlaps : Prop :=
          (∃ j : Fin 8, j ≠ i ∧ (s.regions[j]).valid = true ∧ p.base < (s.regions[j]).base + (s.regions[j]).size ∧
            (s.regions[j]).base < p.base + p.size) ∨
          ∃ g, s.log.geometry = some g ∧ p.base < g.base + 128 + 32 * 2 ^ g.exponent ∧ g.base < p.base + p.size
        (2 ≤ s.link.lock.val → exec (.setRegion p) s = .next (s.answerLink .locked [])) ∧
        (s.link.lock.val < 2 → ¬ free → exec (.setRegion p) s = .next (s.answerLink .busy [])) ∧
        (s.link.lock.val < 2 → free → overlaps → exec (.setRegion p) s = .next (s.answerLink .overlap [])) ∧
        (s.link.lock.val < 2 → free → ¬ overlaps →
          exec (.setRegion p) s = .next ({ s with regions := s.regions.set i r }.answerLink .ok []))) ∧
    (∀ n, 8 ≤ n → exec (.clearRegion n) s = .next (s.answerLink .range [])) ∧
    ∀ i : Fin 8,
      (2 ≤ s.link.lock.val → exec (.clearRegion i.val) s = .next (s.answerLink .locked [])) ∧
      (s.link.lock.val < 2 → ¬ free → exec (.clearRegion i.val) s = .next (s.answerLink .busy [])) ∧
      (s.link.lock.val < 2 → free → (s.regions[i]).valid = false →
        exec (.clearRegion i.val) s = .next (s.answerLink .notFound [])) ∧
      (s.link.lock.val < 2 → free → (s.regions[i]).valid = true →
        exec (.clearRegion i.val) s =
          .next ({ s with regions := s.regions.set i { s.regions[i] with valid := false } }.answerLink .ok []))

/-- SET_POLICY in its order: RANGE, LOCKED at level 3, STATE for a polarity change outside GATED; otherwise all eight
values are replaced, the coded ones by their codes (1 HOLD and 2 REFUSE, 1 COMMIT and 2 ROLLBACK, 1 AUTO and 2 MANUAL,
1 active low and 2 active high, section 12.3), LOG_LOW is armed and compared with the new low-water value (with free slots 0
while there is no newest durable anchor: the model's reading, log 17; and with 0 where a SET_LOG in GATED has made R3's
difference negative: the model's choice, log 50), the resume-delay timer follows a change of resume
policy (log 39), and the answer is OK (R24, R130, R154). -/
def Obligations.SetPolicyAnswered : Prop :=
  ∀ (s : State) (p : PolicyParams), s.linkReady →
    let inRange : Prop := (p.holdPolicy = 1 ∨ p.holdPolicy = 2) ∧ 1 ≤ p.holdLimit ∧ p.holdLimit ≤ 65535 ∧
      p.idleLimit ≤ 65535 ∧ (p.idleAction = 1 ∨ p.idleAction = 2) ∧ p.lowWater ≤ 2097152 ∧
      (p.resumePolicy = 1 ∨ p.resumePolicy = 2) ∧ 1 ≤ p.resumeDelay ∧ p.resumeDelay ≤ 255 ∧
      (p.polarity = 1 ∨ p.polarity = 2)
    let q : Policy :=
      { holdPolicy := if p.holdPolicy = 1 then .hold else .refuse
        holdLimit := p.holdLimit
        idleLimit := p.idleLimit
        idleAction := if p.idleAction = 1 then .commit else .rollback
        lowWater := p.lowWater
        resumePolicy := if p.resumePolicy = 1 then .auto else .manual
        resumeDelay := p.resumeDelay
        polarity := if p.polarity = 1 then .activeLow else .activeHigh }
    let free : Nat := if s.log.newest = none then 0 else s.ringSlots - (s.log.head - s.log.persistedTail)
    (¬ inRange → exec (.setPolicy p) s = .next (s.answerLink .range [])) ∧
    (inRange → s.link.lock.val = 3 → exec (.setPolicy p) s = .next (s.answerLink .locked [])) ∧
    (inRange → s.link.lock.val < 3 → q.polarity ≠ s.link.policy.polarity → s.bridge ≠ .gated →
      exec (.setPolicy p) s = .next (s.answerLink .state [])) ∧
    (inRange → s.link.lock.val < 3 → (q.polarity = s.link.policy.polarity ∨ s.bridge = .gated) →
      exec (.setPolicy p) s = .next { s with
        link := { s.link with policy := q, state := .idle, buffer := .answer .ok [] }
        log := { s.log with lowArmed := decide (p.lowWater ≤ free) }
        notes := (if free < p.lowWater then s.post .logLow Key.zero .none free s.log.head else s).notes
        resumeAt :=
          if q.resumePolicy = s.link.policy.resumePolicy then s.resumeAt
          else if q.resumePolicy = .manual then none
          else if s.bridge = .halted ∧ s.pfwHigh = decide (q.polarity = .activeLow)
            then some (s.now + p.resumeDelay * 1000)
          else s.resumeAt })

/-- SET_LOCK: above 3 RANGE, below the level LOCKED, otherwise OK and the level is the one asked for (R153).
SET_NOTICE_MASK: RANGE above 15, otherwise the mask is the set named (R159, R165). CLEAR_COUNTERS: LOCKED at level 3,
otherwise all seven counters are 0, and queue, lost counts and next number stand (R167). -/
def Obligations.LockMaskAndCounters : Prop :=
  ∀ s : State, s.linkReady →
    (∀ n, 3 < n → exec (.setLock n) s = .next (s.answerLink .range [])) ∧
    (∀ n, n < s.link.lock.val → exec (.setLock n) s = .next (s.answerLink .locked [])) ∧
    (∀ k : Fin 4, s.link.lock ≤ k →
      exec (.setLock k.val) s = .next ({ s with link := { s.link with lock := k } }.answerLink .ok [])) ∧
    (∀ n, 16 ≤ n → exec (.setNoticeMask n) s = .next (s.answerLink .range [])) ∧
    (∀ n, n < 16 → exec (.setNoticeMask n) s =
      .next ({ s with notes := { s.notes with mask := BitVec.ofNat 4 n } }.answerLink .ok [])) ∧
    (s.link.lock.val = 3 → exec .clearCounters s = .next (s.answerLink .locked [])) ∧
    (s.link.lock.val < 3 → exec .clearCounters s =
      .next ({ s with notes := { s.notes with counters := ⟨0, 0, 0, 0, 0, 0, 0⟩ } }.answerLink .ok []))

/-- POP_NOTICE on a queue with an entry answers OK with the entry's 16 bytes by its layout and leaves the entries behind
it as they are; on an empty queue it answers EMPTY (R159, R164, spec 12.5). A notice that is posted takes the next notice
number and joins the back of a queue of fewer than 16 entries with lost count 0; in a full queue it takes the newest entry's
place with one more lost, at most 255 (R161, R162). IRQ is driven low exactly while an entry's class is in the mask: GROUP
bit 0, FAULT bit 1, STATE bit 2, SPACE bit 3 (R163, R165). -/
def Obligations.PopNoticeAnswered : Prop :=
  (∀ s : State, s.linkReady →
    (s.notes.queue = [] → exec .popNotice s = .next (s.answerLink .empty [])) ∧
    (∀ n rest, s.notes.queue = n :: rest → ∃ d,
      exec .popNotice s = .next ({ s with notes := { s.notes with queue := rest } }.answerLink .ok d) ∧ d.length = 16 ∧
      field d 0 1 = n.kind.code ∧ field d 1 1 = n.lost % 256 ∧ field d 2 2 = n.number % 65536 ∧
      field d 4 1 = n.key.source.val * 16 + n.key.group.val ∧ field d 5 1 = n.detail.code ∧
      field d 6 2 = n.count % 65536 ∧ field d 8 8 = n.position % 2 ^ 64)) ∧
  (∀ (s : State) (kind : NoticeKind) (key : Key) (d : Detail) (count pos : Nat),
    let entry : Nat → Notice := fun lost => ⟨kind, lost, s.notes.next, key, d, min count 65535, pos⟩
    let posted : List Notice → State := fun q =>
      { s with notes := { s.notes with queue := q, next := (s.notes.next + 1) % 65536 } }
    (s.notes.queue.length < 16 → s.post kind key d count pos = posted (s.notes.queue ++ [entry 0])) ∧
    (∀ older newest, s.notes.queue = older ++ [newest] → older.length = 15 →
      s.post kind key d count pos = posted (older ++ [entry (min 255 (newest.lost + 1))]))) ∧
  ∀ n : NoticeUnit, n.irqLow = true ↔ ∃ e ∈ n.queue,
    (n.mask.getLsbD 0 = true ∧ e.kind ∈ [.groupCommitted, .groupRolledBack, .groupReleased]) ∨
    (n.mask.getLsbD 1 = true ∧ e.kind ∈ [.groupBroken, .recordVoided, .anchorError, .logFaulted, .recoveryFailed]) ∨
    (n.mask.getLsbD 2 = true ∧ e.kind ∈ [.drainDone, .resumed, .recoveryDone]) ∨
    (n.mask.getLsbD 3 = true ∧ e.kind = .logLow)

/-- A frame to the part's address with a command's code, its parameter count and a check byte that makes the sum 0 is taken,
and does what the command's row does, for every command (R149, R150, R152, R169). -/
def Obligations.FrameRunsItsCommand : Prop :=
  ∀ (s : State) (ps : List Byte) (code check : Byte), s.linkReady →
    let frame : List Byte := code :: BitVec.ofNat 8 ps.length :: (ps ++ [check])
    byteSum frame = 0 → paramCount code.toNat = some ps.length →
    ∃ t, exec (.commandFrame s.targetAddress frame) s = .next t ∧
      (code = 0x01 → exec .getIdent s = .next t) ∧ (code = 0x02 → exec .getState s = .next t) ∧
      (code = 0x03 → exec (.setLog (field ps 0 8) (field ps 8 1)) s = .next t) ∧
      (code = 0x04 → exec (.setRegion (RegionParams.parse ps)) s = .next t) ∧
      (code = 0x05 → exec (.clearRegion (field ps 0 1)) s = .next t) ∧
      (code = 0x06 → exec (.getRegion (field ps 0 1)) s = .next t) ∧
      (code = 0x07 → exec (.setPolicy (PolicyParams.parse ps)) s = .next t) ∧
      (code = 0x08 → exec .getPolicy s = .next t) ∧
      (code = 0x09 → field ps 0 1 = 1 → exec .startFresh s = .next t) ∧
      (code = 0x09 → field ps 0 1 = 2 → exec .startRecover s = .next t) ∧
      (code = 0x09 → field ps 0 1 ≠ 1 → field ps 0 1 ≠ 2 → t = s.answerLink .range []) ∧
      (code = 0x0A → exec .stop s = .next t) ∧ (code = 0x0B → exec .resume s = .next t) ∧
      (code = 0x0C → exec (.abandonGroup (field ps 0 1) (field ps 1 1)) s = .next t) ∧
      (code = 0x0D → exec (.releaseBroken (field ps 0 1) (field ps 1 1)) s = .next t) ∧
      (code = 0x0E → exec (.getGroup (field ps 0 1)) s = .next t) ∧ (code = 0x0F → exec .popNotice s = .next t) ∧
      (code = 0x10 → exec (.setNoticeMask (field ps 0 1)) s = .next t) ∧
      (code = 0x11 → exec .getCounters s = .next t) ∧ (code = 0x12 → exec .clearCounters s = .next t) ∧
      (code = 0x13 → exec (.setLock (field ps 0 1)) s = .next t)

/-- While a command executes, no command and no frame is taken (R148, R150). On an idle link the frame tests follow in
their order (R149): a write transfer to another address, or with no byte after the address, is nothing; a size, check,
length or parameter count test that fails sets the response buffer to FRAME_ERROR, an unknown code to UNKNOWN, and nothing
else changes. Of a write transfer the idle target acknowledges its address and the first 35 bytes, which it stores, and no
other byte; an executing one acknowledges nothing (R147, R148). A read transfer to its address is always acknowledged and
sends the response frame - PENDING while executing, NONE before any answer, else the last answer, with a check byte that
makes the sum 0 - and then 0xFF (R151). -/
def Obligations.FrameTests : Prop :=
  (∀ (s : State) (code : Nat) (ps : List Byte), s.link.state = .executing code ps →
    (∀ c, isCommand c = true → exec c s = .next s) ∧ ∀ a bs, exec (.commandFrame a bs) s = .next s) ∧
  (∀ (s : State) (a : BitVec 7) (bs : List Byte), s.linkReady →
    let judged : Status → State := fun st => { s with link := { s.link with buffer := .answer st [] } }
    let run : Host.Outcome State Fault Refusal := exec (.commandFrame a bs) s
    (a ≠ s.targetAddress → run = .next s) ∧ (bs = [] → run = .next s) ∧
    (a = s.targetAddress → bs ≠ [] →
      (bs.length < 3 ∨ 35 < bs.length ∨ byteSum bs ≠ 0 ∨ field bs 1 1 ≠ bs.length - 3 → run = .next (judged .frameError)) ∧
      (3 ≤ bs.length → bs.length ≤ 35 → byteSum bs = 0 → field bs 1 1 = bs.length - 3 →
        ((field bs 0 1 = 0 ∨ 0x13 < field bs 0 1) → run = .next (judged .unknown)) ∧
        (∀ n, paramCount (field bs 0 1) = some n → n ≠ field bs 1 1 → run = .next (judged .frameError))))) ∧
  (∀ (s : State) (a : BitVec 7) (bs : List Byte),
    (a = s.targetAddress → s.link.state = .idle →
      s.writeAcks a bs = true :: (List.replicate (min 35 bs.length) true ++ List.replicate (bs.length - 35) false)) ∧
    (a ≠ s.targetAddress ∨ s.link.state ≠ .idle → s.writeAcks a bs = List.replicate (bs.length + 1) false) ∧
    Frame.collect bs = ⟨bs.take 35, decide (35 < bs.length)⟩) ∧
  ∀ (s : State) (a : BitVec 7) (n : Nat),
    let sends : List Byte → Prop := fun frame => s.readTransfer a n = (frame ++ List.replicate n 0xFF).take n
    s.targetAddress.toNat = 0x58 + s.link.straps.val ∧
    (a ≠ s.targetAddress → s.acksAddress a .read = false ∧ s.readTransfer a n = []) ∧
    (a = s.targetAddress → s.acksAddress a .read = true ∧
      (s.link.state ≠ .idle → sends [0x01, 0x00, 0xFF]) ∧
      (s.link.state = .idle → s.link.buffer = .none → sends [0x02, 0x00, 0xFE]) ∧
      (∀ st d, s.link.state = .idle → s.link.buffer = .answer st d → ∃ check,
        sends (st.code :: BitVec.ofNat 8 d.length :: (d ++ [check])) ∧
          byteSum (st.code :: BitVec.ofNat 8 d.length :: (d ++ [check])) = 0))

/-! ### The H-port and the admission unit -/

/-- HOST_REQUEST with fewer than 32 entries in the intake: the request joins the back, marked a duplicate when a request
of its source and tag is in the intake, the hold list or the in-flight table (R26, R28), or has a response not yet sent
(the model's reading, log 10). With 32 entries nothing is taken. -/
def Obligations.HostRequestTaken : Prop :=
  ∀ (s : State) (r : Request), s.power = true →
    (s.host.intake.length < 32 → ∃ d : Bool,
      (d = true ↔
        (∃ q ∈ s.host.intake, q.req.source = r.source ∧ q.req.tag = r.tag) ∨
        (∃ h ∈ s.host.holds, h.req.source = r.source ∧ h.req.tag = r.tag) ∨
        (∃ e ∈ s.host.inflight, e.source = r.source ∧ e.tag = r.tag) ∨
        ∃ p ∈ s.host.responses, p.source = r.source ∧ p.tag = r.tag) ∧
      exec (.hostRequest r) s = .next { s with host := { s.host with intake := s.host.intake ++ [⟨r, d⟩] } }) ∧
    (32 ≤ s.host.intake.length → exec (.hostRequest r) s = .next s)

/-- A duplicate or malformed request at the front is refused with MALFORMED in every bridge state and before any other
check, and every table stays as it was (R29); a MARK of another kind than COMMIT and ABANDON has its own row,
MARK_OTHER_KIND. -/
def Obligations.MalformedRefused : Prop :=
  ∀ (s : State) (q : Intake) (rest : List Intake), s.takes → s.host.intake = q :: rest →
    (q.dup = true ∨
      match q.req.body with
      | .read addr len => len = 0 ∨ 64 < addr.toNat % 64 + len
      | .write _ mask _ _ => mask = 0
      | .mark group kind => group = 0 ∨ kind = .other) →
    exec (admitRow q.req.body) s = .next { s with host := { s.host with
      intake := rest
      paused := none
      responses := s.host.responses ++ [⟨q.req.source, q.req.tag, .refused .malformed, false⟩] } }

/-- The admission unit takes nothing while a held entry is marked (R82) or a pause lasts, that is until the table that was
short has freed room (R27, R62), nor for a row of another kind than the front request's (the model's choice, log 4). -/
def Obligations.AdmissionWaits : Prop :=
  ∀ (s : State) (c : Instr), c ∈ [Instr.admitWrite, .admitRead, .markCommit, .markAbandon, .markOtherKind] →
    (¬ s.takes ∨ (∃ room, s.host.paused = some ⟨room, false⟩) ∨ s.host.intake = [] ∨
      ∃ q rest, s.host.intake = q :: rest ∧ admitRow q.req.body ≠ c) →
    exec c s = .next s

/-- A READ by the bridge state (R34, R35, R37) and, in RUNNING, by older held requests to its line (R39, R84) and the
rollback of its line (R56): it is refused, held, or takes an in-flight entry with its access handed over as TRAFFIC. The
class of an address (R33): LOG in the log area, otherwise its valid entry's class with its ungrouped policy, otherwise
PASS. -/
def Obligations.ReadDecided : Prop :=
  (∀ (s : State) (a : Nat),
    let inLog : Prop := ∃ g, s.log.geometry = some g ∧ g.base ≤ a ∧ a < g.base + 128 + 32 * 2 ^ g.exponent
    let covers : Fin 8 → Prop := fun i =>
      (s.regions[i]).valid = true ∧ (s.regions[i]).base ≤ a ∧ a < (s.regions[i]).base + (s.regions[i]).size
    (inLog → s.classify a = .log) ∧
    (¬ inLog → (∀ i, ¬ covers i) → s.classify a = .pass) ∧
    (∀ i, ¬ inLog → covers i → (∀ j, covers j → j = i) → s.classify a =
      match (s.regions[i]).cls with
      | .journaled => .journaled (s.regions[i]).policy
      | .readOnly => .readOnly
      | .pass => .pass)) ∧
  ∀ (s : State) (src : Source) (tag : ReqTag) (a : BitVec 36) (len : Nat) (rest : List Intake),
    let r : Request := ⟨src, tag, .read a len⟩
    let line := a.toNat / 64
    let run := exec .admitRead s
    let journaled : Prop := ∃ u, s.classify a.toNat = .journaled u
    let passed := s.passedFront rest ⟨src, tag, .passRead a.toNat len, .queued⟩
      ⟨.passRead src tag, false, a.toNat, len, 0, []⟩
    s.front r rest → 1 ≤ len → a.toNat % 64 + len ≤ 64 →
    (s.bridge = .gated ∨ s.bridge = .faulted → run = .next passed) ∧
    (s.bridge = .recovering →
      (journaled → run = .next (s.refusedFront r rest .recovering)) ∧ (¬ journaled → run = .next passed)) ∧
    (s.bridge = .draining ∨ s.bridge = .halted →
      (s.isRollingBack line → run = .next (s.refusedFront r rest .halted)) ∧
      (¬ s.isRollingBack line → run = .next passed)) ∧
    (s.bridge = .running →
      (∀ h, IsLatestOn s.host.holds src line h →
        run = .next (s.heldFront r rest (.order h.req.source h.req.tag))) ∧
      (s.noneHeldOn src line →
        (journaled ∧ s.isRollingBack line → run = .next (s.heldFront r rest (.rollbackRead line))) ∧
        (¬ (journaled ∧ s.isRollingBack line) → run = .next passed)))

/-- A WRITE by the bridge state and its line's class, but for a journaled write of a group in RUNNING: refused, held, or
passed to memory as TRAFFIC (R34, R35, R36, R38, R55, R60, R78). In RUNNING a WRITE that would pass is held behind an older
held request of its source to its line, to a PASS line too, while one refused for its class or its group number is refused
first (R39 against R60: the model's reading, log 12). -/
def Obligations.WriteByStateAndClass : Prop :=
  ∀ (s : State) (src : Source) (tag : ReqTag) (line : BitVec 30) (mask : BitVec 64) (data : List Byte) (g : GroupNo)
    (rest : List Intake),
    let r : Request := ⟨src, tag, .write line mask data g⟩
    let n := line.toNat
    let cls := s.classify (n * 64)
    let run := exec .admitWrite s
    let refused := fun why => run = .next (s.refusedFront r rest why)
    let passed := run = .next (s.passedFront rest ⟨src, tag, .passWrite n mask data, .queued⟩
      ⟨.passWrite src tag, true, n * 64, 64, mask.setWidth 96, data⟩)
    let ordered := ∀ h, IsLatestOn s.host.holds src n h →
      run = .next (s.heldFront r rest (.order h.req.source h.req.tag))
    s.front r rest → mask ≠ 0 →
    (s.bridge = .gated ∨ s.bridge = .recovering → refused .gated) ∧
    (s.bridge = .draining ∨ s.bridge = .halted → refused .halted) ∧
    (s.bridge = .faulted →
      (cls = .pass → passed) ∧ (cls = .readOnly ∨ cls = .log → refused .roRegion) ∧
      (∀ u, cls = .journaled u → refused .faulted)) ∧
    (s.bridge = .running →
      (cls = .readOnly ∨ cls = .log → refused .roRegion) ∧
      (cls = .journaled .refuse → g = 0 → refused .noGroup) ∧
      (cls = .pass → ordered ∧ (s.noneHeldOn src n → passed)) ∧
      (cls = .journaled .passUnlogged → g = 0 → ordered ∧
        (s.noneHeldOn src n →
          (s.claimOf n = none → passed) ∧
          (∀ c, s.claimOf n = some c → run = .next (s.turnedBack r rest (.line n) .conflict)))))

/-- A journaled write of a group in RUNNING that is turned back, by the checks of R60 in their order: GROUP_CLOSING,
DAMAGED, an older held request of its source to its line, no free group slot, a line claimed by another group, no free
claim entry, the reserve (R11, R44, R51, R78, R84). -/
def Obligations.JournaledWriteTurnedBack : Prop :=
  ∀ (s : State) (src : Source) (tag : ReqTag) (line : BitVec 30) (mask : BitVec 64) (data : List Byte) (g : GroupNo)
    (rest : List Intake) (u : Ungrouped),
    let r : Request := ⟨src, tag, .write line mask data g⟩
    let n := line.toNat
    let k : Key := ⟨src, g⟩
    let run := exec .admitWrite s
    s.front r rest → mask ≠ 0 → s.bridge = .running → s.classify (n * 64) = .journaled u → g ≠ 0 →
    (∀ i, s.findSlot k = some i → (s.slot i).state ≠ .opened → run = .next (s.refusedFront r rest .groupClosing)) ∧
    (∀ i, s.findSlot k = some i → (s.slot i).state = .opened → (s.slot i).damaged = true →
      run = .next (s.refusedFront r rest .damaged)) ∧
    (s.findSlot k = none ∨ (∃ i, s.findSlot k = some i ∧ (s.slot i).state = .opened ∧ (s.slot i).damaged = false) →
      (∀ h, IsLatestOn s.host.holds src n h → run = .next (s.heldFront r rest (.order h.req.source h.req.tag))) ∧
      (s.noneHeldOn src n →
        (s.findSlot k = none → s.freeSlot = none → run = .next (s.turnedBack r rest .groupSlot .groupTableFull)) ∧
        (∀ i, s.findSlot k = some i ∨ (s.findSlot k = none ∧ s.freeSlot = some i) →
          (∀ c, s.claimOf n = some c → s.findSlot k = none ∨ c.owner ≠ i →
            run = .next (s.turnedBack r rest (.line n) .conflict)) ∧
          (s.claimOf n = none → 256 ≤ s.grp.claims.length →
            run = .next (s.turnedBack r rest .claimSpace .claimTableFull))))) ∧
    (∀ i opens claims logged first count, s.mayJournal k n i opens claims logged →
      neededSpan mask logged = some (first, count) →
      s.freeSlots < padSlots s.geo s.log.head (beforeSlots count) + beforeSlots count + 4 →
      run = .next (s.turnedBack r rest .logSpace .logFull))

/-- The needs-log decision (R53): with no new byte there is no record; otherwise the span runs from the lowest new byte
to the highest, and its BEFORE takes 2 ring slots for up to 32 bytes, 3 for 33 to 64 (R4). -/
def Obligations.NeededSpan : Prop :=
  ∀ mask logged : BitVec 64,
    let new : Nat → Prop := fun b => mask.getLsbD b = true ∧ logged.getLsbD b = false
    ((∀ b, ¬ new b) → neededSpan mask logged = none) ∧
    (∀ lo hi, new lo → new hi → (∀ b, new b → lo ≤ b ∧ b ≤ hi) →
      neededSpan mask logged = some (lo, hi - lo + 1) ∧ 1 ≤ hi - lo + 1 ∧ lo + (hi - lo + 1) ≤ 64 ∧
        (hi - lo + 1 ≤ 32 → beforeSlots (hi - lo + 1) = 2) ∧ (32 < hi - lo + 1 → beforeSlots (hi - lo + 1) = 3)) ∧
    ((∃ b, new b) → ∃ lo hi, new lo ∧ new hi ∧ ∀ b, new b → lo ≤ b ∧ b ≤ hi)

/-- A journaled write that needs a record and passes the checks is admitted in one step (R63): its group opens or is
joined and its idle deadline restarts (R45 to R47), its claim is made (R51), a PAD, when the record would cross the end of
the ring, and the BEFORE are allocated (R9, R10, R61), free slots are compared with the low-water value after each (R24),
its before-image read is handed over (R13, R65), and under a CLEAN newest anchor the clean barrier is begun: an ACTIVE
anchor of the current generation with the next serial, the configured exponent and the volatile tail (R19, R20, R22; as
they stand at this hand-over, log 15), behind that read in the LOG queue (the order is the model's, log 40). Memory and
everything else stand. With a full in-flight table, or fewer window places than its records need beside the closing
records that are due (R12), the admission unit pauses instead (R62); short of both it waits for the in-flight entry (the
model's choice, log 14); places left for closing records that are due are those of the list of log 13. -/
def Obligations.JournaledWriteAdmitted : Prop :=
  ∀ (s : State) (src : Source) (tag : ReqTag) (line : BitVec 30) (mask : BitVec 64) (data : List Byte) (g : GroupNo)
    (rest : List Intake) (i : SlotNo) (opens claims : Bool) (logged : BitVec 64) (first count : Nat),
    let n := line.toNat
    let k : Key := ⟨src, g⟩
    let size := beforeSlots count
    let left := s.geo.slots - s.log.head % s.geo.slots
    let pad := if left < size then left else 0
    let pos := s.log.head + pad
    let old := s.slot i
    let back := if opens = true ∨ old.records = 0 then 0 else pos - old.newest
    let padding : Header := ⟨.pad, pad, ⟨0, 0⟩, false, s.log.head, s.log.gen, 0, 0, 0, 0, 0⟩
    let header : Header := ⟨.before, size, k, false, pos, s.log.gen, back, n, first, count, 0⟩
    let idle := if s.link.policy.idleLimit = 0 then none else some (s.link.policy.idleLimit * 1000)
    let padWrite : MReq := ⟨.recordWrite s.log.head false, true, s.geo.slotAddr s.log.head, 32, spanMask 96 0 32,
      padding.bytes⟩
    let read : MReq := ⟨.biRead pos, false, n * 64 + first, count, 0, []⟩
    let free : Nat → Nat := fun head => ({ s with log := { s.log with head := head } } : State).freeSlots
    let low : Nat → Prop := fun head => free head < s.link.policy.lowWater
    let padded : NoticeUnit := if pad ≠ 0 ∧ low pos ∧ s.log.lowArmed = true
      then (s.post .logLow Key.zero .none (free pos) pos).notes else s.notes
    let armed : Prop := if pad = 0 then s.log.lowArmed = true else ¬ low pos
    let barrier : Prop := s.anchorClean = true ∧ s.log.anchorOp = .idle
    let entry : Prop := s.host.inflight.length < 32
    let places : Prop := (if pad = 0 then 1 else 2) + s.log.window.length + s.log.due.length ≤ 8
    s.front ⟨src, tag, .write line mask data g⟩ rest → mask ≠ 0 → s.mayJournal k n i opens claims logged →
    neededSpan mask logged = some (first, count) → pad + size + 4 ≤ s.freeSlots →
    (¬ entry → exec .admitWrite s = .next (s.pausedFront .inFlight)) ∧
    (entry → ¬ places → exec .admitWrite s = .next (s.pausedFront .window)) ∧
    (entry → places → ∃ t, exec .admitWrite s = .next t ∧
      t.host = { s.host with
        intake := rest
        paused := none
        inflight := s.host.inflight ++ [⟨src, tag, .journaled n mask data i (some ⟨pos, first, count⟩), .biRead⟩] } ∧
      t.slot i = (if opens = true then
          ⟨.opened, k, pos, pos, 1, 1, 1, idle, false, none, none, none⟩
        else { old with
          first := if old.records = 0 then pos else old.first
          newest := pos
          records := old.records + 1
          claims := old.claims + (if claims = true then 1 else 0)
          inflight := old.inflight + 1
          idle := idle }) ∧
      (∀ j, j ≠ i → t.slot j = s.slot j) ∧
      t.grp = { s.grp with
        slots := t.grp.slots
        claims := s.grp.claims ++ (if claims = true then [⟨n, i, 0⟩] else []) } ∧
      t.IsVolatileTail t.log.volatileTail ∧
      t.log = { s.log with
        head := pos + size
        window := s.log.window ++ (if pad = 0 then [] else [padding]) ++ [header]
        volatileTail := t.log.volatileTail
        anchorOp := t.log.anchorOp
        lowArmed := decide (s.link.policy.lowWater ≤ free (pos + size)) } ∧
      (let a : Anchor :=
        ⟨(s.log.newest.map (·.serial)).getD 0 + 1, s.log.gen, .active, s.geo.exponent, t.log.volatileTail⟩
       (barrier → t.log.anchorOp = .writing s.nextCopy a .running ∧
        t.mport = { s.mport with logQ := s.mport.logQ ++ (if pad = 0 then [] else [padWrite]) ++ [read] ++
          [⟨.anchorWrite, true, s.geo.anchorAddr s.nextCopy, 64, spanMask 96 0 64, a.bytes⟩] })) ∧
      (¬ barrier → t.log.anchorOp = s.log.anchorOp ∧
        t.mport = { s.mport with logQ := s.mport.logQ ++ (if pad = 0 then [] else [padWrite]) ++ [read] }) ∧
      (low (pos + size) ∧ armed → t.notes =
        (({ s with notes := padded } : State).post .logLow Key.zero .none (free (pos + size)) (pos + size)).notes) ∧
      (¬ (low (pos + size) ∧ armed) → t.notes = padded) ∧
      t = { s with host := t.host, grp := t.grp, log := t.log, mport := t.mport, notes := t.notes })

/-- A journaled write without new bytes is admitted with no record (R69): it joins its group, takes an in-flight entry in
FRONTIER_WAIT, and begins DATA_WRITE at once under an ACTIVE newest anchor and the same-source line order (R39, R67); of the
writes admitted before it those go on that may (log 48). Log, claims and memory stand. With a full in-flight table the
admission unit pauses instead (R62). -/
def Obligations.JournaledWriteWithoutRecord : Prop :=
  ∀ (s : State) (src : Source) (tag : ReqTag) (line : BitVec 30) (mask : BitVec 64) (data : List Byte) (g : GroupNo)
    (rest : List Intake) (i : SlotNo) (logged : BitVec 64),
    let n := line.toNat
    let goes : Prop := s.anchorActive = true ∧ InLineOrder s.host.inflight src n true
    let write : MReq := ⟨.dataWrite src tag, true, n * 64, 64, mask.setWidth 96, data⟩
    s.front ⟨src, tag, .write line mask data g⟩ rest → mask ≠ 0 → s.mayJournal ⟨src, g⟩ n i false false logged →
    neededSpan mask logged = none →
    (32 ≤ s.host.inflight.length → exec .admitWrite s = .next (s.pausedFront .inFlight)) ∧
    (s.host.inflight.length < 32 → ∃ m t, exec .admitWrite s = .next t ∧ DataPhasesBegin m t ∧
      m = { s with
        host := { s.host with
          intake := rest
          paused := none
          inflight := s.host.inflight ++ [⟨src, tag, .journaled n mask data i none, .frontierWait⟩] }
        grp := { s.grp with slots := s.grp.slots.set i { s.slot i with
          inflight := (s.slot i).inflight + 1
          idle := if s.link.policy.idleLimit = 0 then none else some (s.link.policy.idleLimit * 1000) } } } ∧
      (goes → t.host.inflight.getLast? = some ⟨src, tag, .journaled n mask data i none, .dataQueued⟩ ∧
        write ∈ t.mport.trafficQ) ∧
      (¬ goes → t.host.inflight.getLast? = some ⟨src, tag, .journaled n mask data i none, .frontierWait⟩))

/-! ### Marks, groups, responses and holds -/

/-- A MARK with a group number outside RUNNING is refused with the code of the bridge state (R34, R35); in RUNNING a MARK
for a key without a slot is refused with NOT_OPEN (R90). -/
def Obligations.MarkRefused : Prop :=
  ∀ (s : State) (src : Source) (tag : ReqTag) (g : GroupNo) (kind : MarkKind) (rest : List Intake),
    let r : Request := ⟨src, tag, .mark g kind⟩
    let run := exec (admitRow (.mark g kind)) s
    s.front r rest → g ≠ 0 → kind ≠ .other →
    (s.bridge = .gated ∨ s.bridge = .recovering → run = .next (s.refusedFront r rest .gated)) ∧
    (s.bridge = .draining ∨ s.bridge = .halted → run = .next (s.refusedFront r rest .halted)) ∧
    (s.bridge = .faulted → run = .next (s.refusedFront r rest .faulted)) ∧
    (s.bridge = .running → s.findSlot ⟨src, g⟩ = none → run = .next (s.refusedFront r rest .notOpen))

/-- A COMMIT in RUNNING by its slot's state (R91): an OPEN slot enters COMMITTING, or ROLLBACK_WAIT when damaged, with
the mark as its waiter; a COMMITTING slot without a waiter takes it as its waiter; otherwise it is refused. With a full
in-flight table an admissible mark makes the admission unit pause (R27). -/
def Obligations.CommitMark : Prop :=
  ∀ (s : State) (src : Source) (tag : ReqTag) (g : GroupNo) (rest : List Intake) (i : SlotNo),
    let r : Request := ⟨src, tag, .mark g .commit⟩
    let run := exec .markCommit s
    let waiter : Waiter := ⟨src, tag, .commit⟩
    let room : Prop := s.host.inflight.length < 32
    let entered : State := { s with host := { s.host with
      intake := rest, paused := none, inflight := s.host.inflight ++ [⟨src, tag, .mark g .commit, .waiting⟩] } }
    s.front r rest → g ≠ 0 → s.bridge = .running → s.findSlot ⟨src, g⟩ = some i →
    ((s.slot i).state = .opened → (s.slot i).damaged = false → room →
      ∃ t, run = .next t ∧ SlotCloses entered t i .committing .mark (some waiter)) ∧
    ((s.slot i).state = .opened → (s.slot i).damaged = true → room →
      ∃ t, run = .next t ∧ SlotCloses entered t i .rollbackWait .damaged (some waiter)) ∧
    ((s.slot i).state = .committing → (s.slot i).waiter = none → room →
      run = .next (entered.updSlot i fun x => { x with waiter := some waiter })) ∧
    ((s.slot i).state = .opened ∨ ((s.slot i).state = .committing ∧ (s.slot i).waiter = none) → ¬ room →
      run = .next (s.pausedFront .inFlight)) ∧
    ((s.slot i).state = .committing → (s.slot i).waiter ≠ none → run = .next (s.refusedFront r rest .groupClosing)) ∧
    ((s.slot i).state = .rollbackWait ∨ (s.slot i).state = .rollingBack ∨ (s.slot i).state = .broken →
      run = .next (s.refusedFront r rest .tooLate))

/-- An ABANDON in RUNNING by its slot's state (R92): an OPEN slot enters ROLLBACK_WAIT with the mark as its waiter; a slot
rolling back without a waiter takes it; for a BROKEN slot it is answered FAILED with BROKEN; otherwise it is refused. -/
def Obligations.AbandonMark : Prop :=
  ∀ (s : State) (src : Source) (tag : ReqTag) (g : GroupNo) (rest : List Intake) (i : SlotNo),
    let r : Request := ⟨src, tag, .mark g .abandon⟩
    let run := exec .markAbandon s
    let waiter : Waiter := ⟨src, tag, .abandon⟩
    let room : Prop := s.host.inflight.length < 32
    let back : Prop := (s.slot i).state = .rollbackWait ∨ (s.slot i).state = .rollingBack
    let entered : Stage → State := fun st => { s with host := { s.host with
      intake := rest, paused := none, inflight := s.host.inflight ++ [⟨src, tag, .mark g .abandon, st⟩] } }
    s.front r rest → g ≠ 0 → s.bridge = .running → s.findSlot ⟨src, g⟩ = some i →
    ((s.slot i).state = .opened → room →
      ∃ t, run = .next t ∧ SlotCloses (entered .waiting) t i .rollbackWait .abandon (some waiter)) ∧
    (back → (s.slot i).waiter = none → room →
      run = .next ((entered .waiting).updSlot i fun x => { x with waiter := some waiter })) ∧
    (back → (s.slot i).waiter ≠ none → run = .next (s.refusedFront r rest .groupClosing)) ∧
    ((s.slot i).state = .committing → run = .next (s.refusedFront r rest .tooLate)) ∧
    ((s.slot i).state = .broken → room → (∀ e ∈ s.host.inflight, ¬ (e.source = src ∧ e.tag = tag)) →
      run = .next { entered .done with host := { (entered .done).host with
        responses := s.host.responses ++ [⟨src, tag, .failed .broken, true⟩] } }) ∧
    ((s.slot i).state = .opened ∨ (back ∧ (s.slot i).waiter = none) ∨ (s.slot i).state = .broken → ¬ room →
      run = .next (s.pausedFront .inFlight))

/-- When the idle deadline of an OPEN slot expires in RUNNING, the slot leaves OPEN by its damaged flag and the idle action
in force at that moment, with no waiter; the held writes of its key are refused with GROUP_CLOSING, and with no write in
flight the closing step follows at once (R93). -/
def Obligations.IdleExpiry : Prop :=
  ∀ (s : State) (i : SlotNo), s.power = true → s.bridge = .running → (s.slot i).state = .opened →
    (s.slot i).idle = some 0 → ∃ t, exec (.idleExpiry i) s = .next t ∧
      ((s.slot i).damaged = false → s.link.policy.idleAction = .commit → SlotCloses s t i .committing .idle none) ∧
      ((s.slot i).damaged = false → s.link.policy.idleAction = .rollback → SlotCloses s t i .rollbackWait .idle none) ∧
      ((s.slot i).damaged = true → SlotCloses s t i .rollbackWait .damaged none)

/-- ABANDON_GROUP (R95, R157) and RELEASE_BROKEN (R107, R157) by their checks: RANGE, STATE outside RUNNING, NOT_FOUND,
STATE in the wrong slot state; an OPEN group closes with cause MANAGEMENT and the command is answered OK, a BROKEN one has
its UNRESTORED record due and the command stays executing. -/
def Obligations.GroupCommands : Prop :=
  ∀ (s : State) (a b : Nat), s.linkReady →
    (¬ (a < 8 ∧ 1 ≤ b ∧ b < 16) → exec (.abandonGroup a b) s = .next (s.answerLink .range []) ∧
      exec (.releaseBroken a b) s = .next (s.answerLink .range [])) ∧
    ∀ k : Key, k.source.val = a → k.group.val = b → k.group ≠ 0 → s.link.lock.val < 3 →
      (s.bridge ≠ .running → exec (.abandonGroup a b) s = .next (s.answerLink .state []) ∧
        exec (.releaseBroken a b) s = .next (s.answerLink .state [])) ∧
      (s.bridge = .running → s.findSlot k = none → exec (.abandonGroup a b) s = .next (s.answerLink .notFound []) ∧
        exec (.releaseBroken a b) s = .next (s.answerLink .notFound [])) ∧
      (∀ i, s.bridge = .running → s.findSlot k = some i →
        ((s.slot i).state = .opened → ∃ t, exec (.abandonGroup a b) s = .next t ∧
          SlotCloses (s.answerLink .ok []) t i .rollbackWait .management none) ∧
        ((s.slot i).state ≠ .opened → exec (.abandonGroup a b) s = .next (s.answerLink .state [])) ∧
        ((s.slot i).state = .broken → exec (.releaseBroken a b) s = .next { s with
          link := { s.link with state := .executing 0x0D (leBytes 1 a ++ leBytes 1 b), buffer := .none }
          log := { s.log with due := s.log.due ++ [⟨i, .unrestored⟩] } }) ∧
        ((s.slot i).state ≠ .broken → exec (.releaseBroken a b) s = .next (s.answerLink .state [])))

/-- RESPONSE_SENT sends the oldest decided response: the answered in-flight entry of an admitted request frees, the held
entries that wait for an in-flight entry are marked, and a pause for one ends; REFUSALS counts a REFUSED one (R27, R30, R62,
R81, R166). That REFUSALS rises then, and not at the decision (R30 against R166), is the model's reading (log 11). -/
def Obligations.ResponseSent : Prop :=
  ∀ s : State, s.power = true →
    (s.host.responses = [] → exec .responseSent s = .next s) ∧
    (∀ r rest, s.host.responses = r :: rest → ∃ t, exec .responseSent s = .next t ∧
      t.host = { s.host with
        holds := t.host.holds
        inflight := t.host.inflight
        paused := t.host.paused
        responses := rest } ∧
      (r.admitted = false → t.host.inflight = s.host.inflight ∧ t.host.holds = s.host.holds ∧
        t.host.paused = s.host.paused) ∧
      (r.admitted = true →
        (∀ pre e post, s.host.inflight = pre ++ e :: post → e.source = r.source → e.tag = r.tag → e.stage = .done →
          (∀ x ∈ pre, ¬ (x.source = r.source ∧ x.tag = r.tag ∧ x.stage = .done)) → t.host.inflight = pre ++ post) ∧
        (t.host.holds = s.host.holds.map fun h => if h.room = some .inFlight then { h with marked := true } else h) ∧
        t.host.paused = s.host.paused.map fun p => if p.short = .inFlight then { p with freed := true } else p) ∧
      t.notes.counters = { s.notes.counters with refusals :=
        match r.answer with
        | .refused _ => min (s.notes.counters.refusals + 1) 4294967295
        | _ => s.notes.counters.refusals } ∧
      t.notes = { s.notes with counters := t.notes.counters } ∧ t = { s with host := t.host, notes := t.notes })

/-- HOLD_REEVALUATE leaves no entry marked (R82): that the whole pass, further passes included, is one step is the model's
reading (log 43). One marked entry, on which no other waits by ORDER, is decided as though its request had just been taken
with only the older entries held: as the row of its kind decides it from the front of the intake (the statements about
ADMIT_WRITE and ADMIT_READ say how). Held again, it stays with its deadline and the new reason; short of room, it stays
with its reason and the room note IN_FLIGHT or WINDOW, IN_FLIGHT when it is short of both (R82 and R83 name no order: the
model's choice, log 14); refused or admitted - a pass-through READ or WRITE, or a journaled write with its group, claim
and records - it leaves the list (R27, R62, R82 to R84). Closing records that are due and not allocated leave it no window
place (log 13), and an anchor's contents are those of its hand-over (log 15). The four outcomes are also stated one by
one. -/
def Obligations.HeldReevaluated : Prop :=
  (∀ s : State, s.power = true → ∃ t, exec .holdReevaluate s = .next t ∧ ∀ h ∈ t.host.holds, h.marked = false) ∧
  ∀ (s : State) (older younger : List Hold) (h : Hold), s.power = true → s.host.holds = older ++ h :: younger →
    h.marked = true → (∀ g ∈ older ++ younger, g.marked = false ∧ g.reason ≠ .order h.req.source h.req.tag) →
    let left := fun hs : List Hold => { s with host := { s.host with holds := hs } }
    let stays := fun (why : HoldReason) (room : Option Room) =>
      left (older ++ { h with marked := false, reason := why, room := room } :: younger)
    let refused := fun why : Reason => { s with host := { s.host with
      holds := older ++ younger
      responses := s.host.responses ++ [⟨h.req.source, h.req.tag, .refused why, false⟩] } }
    let passed := fun (w : Work) (q : MReq) => { s with
      host := { s.host with
        holds := older ++ younger
        inflight := s.host.inflight ++ [⟨h.req.source, h.req.tag, w, .queued⟩] }
      mport := { s.mport with trafficQ := s.mport.trafficQ ++ [q] } }
    let taken : State :=
      { s with host := { s.host with holds := older, intake := ⟨h.req, false⟩ :: s.host.intake, paused := none } }
    let run := exec .holdReevaluate s
    (malformed h.req = false → (requestLine h.req.body).isSome = true → older.length < 8 →
      ∃ t, exec (admitRow h.req.body) taken = .next t ∧
        (∀ room, t.host.paused = some ⟨room, false⟩ → run = .next (stays h.reason (some room))) ∧
        (∀ x, t.host.holds = older ++ [x] → run = .next (stays x.reason none)) ∧
        (t.host.paused = none → t.host.holds = older → run = .next { t with host := { t.host with
          holds := older ++ younger
          intake := s.host.intake
          paused := s.host.paused } })) ∧
    (∀ why, s.heldVerdict older h.req = .refuse why → run = .next (refused why)) ∧
    (∀ why, s.heldVerdict older h.req = .hold why → run = .next (stays why none)) ∧
    (s.heldVerdict older h.req = .pass →
      (32 ≤ s.host.inflight.length → run = .next (stays h.reason (some .inFlight))) ∧
      (∀ a len, h.req.body = .read a len → s.host.inflight.length < 32 → run = .next
        (passed (.passRead a.toNat len) ⟨.passRead h.req.source h.req.tag, false, a.toNat, len, 0, []⟩)) ∧
      (∀ l m d g, h.req.body = .write l m d g → s.host.inflight.length < 32 → run = .next
        (passed (.passWrite l.toNat m d)
          ⟨.passWrite h.req.source h.req.tag, true, l.toNat * 64, 64, m.setWidth 96, d⟩))) ∧
    (∀ p, s.heldVerdict older h.req = .journal p →
      (32 ≤ s.host.inflight.length → run = .next (stays h.reason (some .inFlight))) ∧
      (∀ first count, p.span = some (first, count) → s.host.inflight.length < 32 →
        8 < (if padSlots s.geo s.log.head (beforeSlots count) = 0 then 1 else 2) + s.log.window.length +
          s.log.due.length →
        run = .next (stays h.reason (some .window))))

/-- HOLD_TIMEOUT removes the held request whose deadline is reached and refuses it with HOLD_TIMEOUT, HOLD_TIMEOUTS counts
it, and the entries that wait on it by ORDER are marked (R80, R81, R84); with no such entry it changes nothing. REFUSALS
rises when that response is sent (R166 against R80's "rises by 1": the model's reading, log 11). -/
def Obligations.HoldTimeout : Prop :=
  ∀ (s : State) (src : Source) (tag : ReqTag), s.power = true →
    let expired : Hold → Prop := fun h => h.req.source = src ∧ h.req.tag = tag ∧ h.deadline ≤ s.now
    ((∀ h ∈ s.host.holds, ¬ expired h) → exec (.holdTimeout src tag) s = .next s) ∧
    (∀ pre h post, s.host.holds = pre ++ h :: post → expired h → (∀ g ∈ pre, ¬ expired g) →
      exec (.holdTimeout src tag) s = .next { s with
        host := { s.host with
          holds := (pre ++ post).map fun g => if g.reason = .order src tag then { g with marked := true } else g
          responses := s.host.responses ++ [⟨src, tag, .refused .holdTimeout, false⟩] }
        notes := { s.notes with counters := { s.notes.counters with
          holdTimeouts := min (s.notes.counters.holdTimeouts + 1) 4294967295 } } })

/-- CLOSING_RECORD_ALLOCATE allocates the closing record that became due first, in RUNNING, DRAINING and RECOVERING, when
the append window has a place (R12, R96, R124): one ring slot at the head with the values of R6, its write handed over,
its position noted in the slot; LOG_LOW by R24. A recovery that is to stop allocates none: R133 stops it, though R12 and
R124 allow one (the model's reading, log 18). There, in another bridge state, with no place or with none due, the row
changes nothing (the model's choice, log 4). The records due wait in the list of log 13. -/
def Obligations.ClosingRecordAllocated : Prop :=
  ∀ s : State, s.power = true →
    let closes : Prop := s.bridge = .running ∨ s.bridge = .draining ∨ (s.bridge = .recovering ∧ s.stopping = false)
    (s.log.due = [] ∨ ¬ closes ∨ 8 ≤ s.log.window.length → exec .closingRecordAllocate s = .next s) ∧
    (∀ c rest, s.log.due = c :: rest → closes → s.log.window.length < 8 →
      let g := s.slot c.slot
      let h : Header := ⟨if c.what = .commit then .commit else .rollback, 1, g.key, decide (c.what = .unrestored), s.log.head,
        s.log.gen, s.log.head - g.first, 0, 0, 0, min g.records 65535⟩
      ∃ t, exec .closingRecordAllocate s = .next t ∧
        t.log = { s.log with
          head := s.log.head + 1
          window := s.log.window ++ [h]
          due := rest
          lowArmed := decide (s.link.policy.lowWater ≤ t.freeSlots) } ∧
        t.slot c.slot = { g with closing := some s.log.head } ∧ (∀ j, j ≠ c.slot → t.slot j = s.slot j) ∧
        t.grp = { s.grp with slots := t.grp.slots } ∧
        t.mport = { s.mport with logQ := s.mport.logQ ++
          [⟨.recordWrite s.log.head false, true, s.geo.slotAddr s.log.head, 32, spanMask 96 0 32, h.bytes⟩] } ∧
        t.notes = (if t.freeSlots < s.link.policy.lowWater ∧ s.log.lowArmed = true
          then s.post .logLow Key.zero .none t.freeSlots t.log.head else s).notes ∧
        t = { s with log := t.log, grp := t.grp, mport := t.mport, notes := t.notes })

/-! ### The M-port -/

/-- MPORT_GRANT (R113 to R115): while a pre-reset request is outstanding (R120) or no class is eligible nothing is
granted; otherwise the first eligible class in the rotation from the class after the last granted one has its oldest ready
request issued under the lowest free tag with a limit 4 ms on. A byte of a READ counts as raced, so that its answer names
it, exactly when a WRITE selects it that is unanswered as the READ is issued, or that is issued while the READ is
outstanding (R65, R110; the model's reading, log 6). The in-flight entry of an issued pass-through access is issued, and
that of a data write has begun its data phase (R64); then exactly the writes in FRONTIER_WAIT that may begin their data
phase do (R39, R67; log 48). A span outside the address space faults (the model's choice, log 24). -/
def Obligations.GrantIssuesOldestReady : Prop :=
  ∀ s : State, s.power = true →
    (s.settling = true ∨ (∀ c, s.eligible c = false) → exec .mportGrant s = .next s) ∧
    ∀ c before after, s.settling = false → s.mport.last.rotation = before ++ c :: after →
      (∀ d ∈ before, s.eligible d = false) → s.eligible c = true →
      ∃ q pre post t, s.mport.queue c = pre ++ q :: post ∧ (∀ x ∈ pre, s.ready x = false) ∧ s.ready q = true ∧
        (s.tag t).state = .free ∧ (∀ i, i < t → (s.tag i).state ≠ .free) ∧
        (2 ^ 36 < q.addr + q.len → exec .mportGrant s = .fault .outsideMemory) ∧
        (q.addr + q.len ≤ 2 ^ 36 → ∃ m u, exec .mportGrant s = .next u ∧
          m.tag t = { m.tag t with state := .outstanding, cls := c, req := q, limit := s.now + 4000 } ∧
          (∀ i, i ≠ t → m.tag i = { s.tag i with raced := (m.tag i).raced }) ∧
          (∀ j, j < 96 → ((m.tag t).raced.getLsbD j = true ↔
            q.write = false ∧ ∃ i, (s.tag i).state ≠ .free ∧ RacedAt (s.tag i).req q j)) ∧
          (∀ i, i ≠ t → ∀ j, j < 96 → ((m.tag i).raced.getLsbD j = true ↔ (s.tag i).raced.getLsbD j = true ∨
            ((s.tag i).state = .outstanding ∧ (s.tag i).req.write = false ∧ RacedAt q (s.tag i).req j))) ∧
          (let moves : Source → ReqTag → Stage → State := fun src tag st => { m with host := { s.host with
            inflight := s.host.inflight.map fun e =>
              if e.source = src ∧ e.tag = tag ∧ e.stage ≠ .done then { e with stage := st } else e } }
           (∀ src tag, q.ref = .passRead src tag ∨ q.ref = .passWrite src tag →
            DataPhasesBegin (moves src tag .issued) u) ∧
           (∀ src tag, q.ref = .dataWrite src tag → DataPhasesBegin (moves src tag .dataIssued) u)) ∧
          ((∀ src tag, q.ref ≠ .passRead src tag ∧ q.ref ≠ .passWrite src tag ∧ q.ref ≠ .dataWrite src tag) → u = m) ∧
          m = { s with mport := {
            tags := m.mport.tags
            last := c
            logQ := if c = .log then pre ++ post else s.mport.logQ
            rollbackQ := if c = .rollback then pre ++ post else s.mport.rollbackQ
            trafficQ := if c = .traffic then pre ++ post else s.mport.trafficQ } })

/-- A class is eligible when a tag is free and one of its requests is ready and, for ROLLBACK and TRAFFIC, they hold fewer
than 14 tags together and ROLLBACK has fewer than 2 OUTSTANDING (R114). A request is ready (R112) when no RETIRED WRITE
shares a byte with its span (R118) and its own conditions hold: for a pass-through READ the line order of R39 and the
read-after-write condition of R40, for a pass-through WRITE the line order, for a before-image READ the read-after-write
condition from its write's place in admission order, for a walk READ that its record is durable (R100) and the walk is not
stopped by a drain (R125; log 26); for any other request none, one that waits without a requester included (R121, R136;
logs 27, 54). -/
def Obligations.CreditAndFence : Prop :=
  (∀ (s : State) (c : Cls), s.eligible c = true ↔
    (∃ t, (s.tag t).state = .free) ∧ (∃ q ∈ s.mport.queue c, s.ready q = true) ∧
      (c ≠ .log → s.held .rollback + s.held .traffic < 14) ∧ (c = .rollback → s.rollbackOut < 2)) ∧
  (∀ (s : State) (t : MTag) (q : MReq) (a : Nat), (s.tag t).state = .retired → (s.tag t).req.write = true →
    (s.tag t).req.addr ≤ a → a < (s.tag t).req.addr + (s.tag t).req.len → q.addr ≤ a → a < q.addr + q.len →
    s.ready q = false) ∧
  ∀ (s : State) (q : MReq),
    let line := q.addr / 64
    (∀ src tag before, q.ref = .passRead src tag → s.admittedAfter before src tag →
      (s.ready q = true ↔ s.unfenced q ∧ InLineOrder before src line false ∧ s.ReadsAfterWrites before line)) ∧
    (∀ src tag before, q.ref = .passWrite src tag → s.admittedAfter before src tag →
      (s.ready q = true ↔ s.unfenced q ∧ InLineOrder before src line true)) ∧
    (∀ pos before e younger, q.ref = .biRead pos → s.host.inflight = before ++ e :: younger → e.ownsRecord pos = true →
      (∀ x ∈ before, x.ownsRecord pos = false) →
      (s.ready q = true ↔ s.unfenced q ∧ s.ReadsAfterWrites before line)) ∧
    (∀ pos, q.ref = .walkRead pos →
      (s.ready q = true ↔ s.unfenced q ∧ (∀ h ∈ s.log.window, h.pos ≠ pos) ∧
        ∀ w, s.grp.walk = some w → w.phase ≠ .suspended)) ∧
    (q.ref.cls = .log → (∀ pos, q.ref ≠ .biRead pos) → (s.ready q = true ↔ s.unfenced q)) ∧
    (q.ref.cls = .rollback → (∀ pos, q.ref ≠ .walkRead pos) → (s.ready q = true ↔ s.unfenced q)) ∧
    (∀ src tag, q.ref = .dataWrite src tag → (s.ready q = true ↔ s.unfenced q)) ∧
    (q.ref = .dropped ∨ q.ref = .preReset → (s.ready q = true ↔ s.unfenced q))

/-- When a tag's limit is reached it is RETIRED and its requester is handed an ERROR, which counts in MEM_ERRORS (R117,
R119): for every requester - before-image READ, record WRITE and its retry, anchor WRITE of every use, data WRITE,
pass-through READ and WRITE, walk READ, restore, scan and anchor READ, and a request without requester (R120) - the part
is as its failed answer leaves it, but for the tag, which is RETIRED where the answer frees it. Memory, configuration and
every other tag's state stand (R118). Before the limit the row changes nothing (the model's choice, log 4). -/
def Obligations.ResponseLimitExpiry : Prop :=
  ∀ (s : State) (t : MTag), s.power = true →
    (¬ ((s.tag t).state = .outstanding ∧ (s.tag t).limit ≤ s.now) → exec (.responseLimitExpiry t) s = .next s) ∧
    ((s.tag t).state = .outstanding → (s.tag t).limit ≤ s.now →
      (∃ u, exec (.responseLimitExpiry t) s = .next u ∧ u.tag t = { s.tag t with state := .retired } ∧
        (∀ i, i ≠ t → (u.tag i).state = (s.tag i).state ∧ (u.tag i).cls = (s.tag i).cls) ∧ u.mem = s.mem ∧
        u.notes.counters.memErrors = min (s.notes.counters.memErrors + 1) 4294967295 ∧ SameSetup s u) ∧
      (∀ c, s.failedAnswer t = some c → ∃ v, exec c s = .next v ∧ (v.tag t).state = .free ∧
        exec (.responseLimitExpiry t) s = .next (v.setTag t { s.tag t with state := .retired })) ∧
      ∀ src tag, (s.tag t).req.ref = .passRead src tag ∨ (s.tag t).req.ref = .passWrite src tag →
        ∃ u, exec (.responseLimitExpiry t) s = .next u ∧
          u.host.responses = s.host.responses ++ [⟨src, tag, .failed .memError, true⟩] ∧
          (∀ e ∈ u.host.inflight, e.source = src → e.tag = tag → e.stage = .done) ∧ u.grp = s.grp ∧ u.log = s.log)

/-- A response that no requester waits for (R116, R118 to R120). On a RETIRED tag it is the late response (LATE_RESPONSE,
and any other answer row): memory takes the bytes that landed and the tag is FREE. The same for a request its requester
has no use for or one issued before a warm reset (PRE_RESET_RESPONSE, and any other answer row but LATE_RESPONSE), where an
ERROR counts in MEM_ERRORS. On a FREE tag nothing changes, nor for LATE_RESPONSE on an OUTSTANDING one (the model's
choice, log 4). -/
def Obligations.AnswerWithoutRequester : Prop :=
  ∀ (c : Instr) (s : State) (t : MTag) (a : MemAnswer), answerRow c = some (t, a) → s.power = true → s.mem.wf = true →
    let freed : State → Prop := fun u => MemoryTakes (s.tag t).req (landedOf a) s u ∧ TagFreed s u t ∧
      u = { s with mem := u.mem, notes := u.notes, mport := { s.mport with tags := u.mport.tags } }
    ((s.tag t).state = .free → exec c s = .next s) ∧
    ((s.tag t).state = .retired →
      ∃ u, exec c s = .next u ∧ freed u ∧ u.notes = s.notes) ∧
    ((s.tag t).state = .outstanding → c = .lateResponse t a → exec c s = .next s) ∧
    ((s.tag t).state = .outstanding → c ≠ .lateResponse t a → (s.tag t).req.ref = .dropped ∨ (s.tag t).req.ref = .preReset →
      ∃ u, exec c s = .next u ∧ freed u ∧ u.notes = { s.notes with counters := { s.notes.counters with
        memErrors := if isErrorAnswer a = true then min (s.notes.counters.memErrors + 1) 4294967295
          else s.notes.counters.memErrors } })

/-- A pass-through READ is answered (R37, R110, R116): DONE with its bytes, which are those of memory where no WRITE was
changing them (log 6; of overlapping WRITEs the one answered last stands, log 44), or FAILED with MEM_ERROR, which counts.
The tag is FREE and memory stands; then exactly the writes in FRONTIER_WAIT that may begin their data phase do (R39, R67;
log 48). -/
def Obligations.PassReadAnswered : Prop :=
  ∀ (s : State) (t : MTag) (a : MemAnswer) (src : Source) (tag : ReqTag), s.power = true → s.awaits t (.passRead src tag) →
    (s.tag t).req.write = false →
    ∃ m u ans, exec (.passReadAnswered t a) s = .next u ∧ AnswerTaken s m t a ∧ m.mem = s.mem ∧
      DataPhasesBegin { m with host := { s.host with
        inflight := s.host.inflight.map fun e => if e.source = src ∧ e.tag = tag then { e with stage := .done } else e
        responses := s.host.responses ++ [⟨src, tag, ans, true⟩] } } u ∧
      (isErrorAnswer a = true → ans = .failed .memError) ∧
      (isErrorAnswer a = false → ∃ d, ans = .done d ∧ d.length = (s.tag t).req.len ∧
        ∀ j, j < (s.tag t).req.len → (s.tag t).raced.getLsbD j = false → d[j]? = some (s.mem.get ((s.tag t).req.addr + j)))

/-- A pass-through WRITE is answered (R38, R110, R116): DONE with its selected bytes durable, or FAILED with MEM_ERROR
with the bytes that landed (over those of a WRITE answered before: the model's choice, log 44); the ERROR counts. Then
exactly the writes in FRONTIER_WAIT that may begin their data phase do (R67; log 48). -/
def Obligations.PassWriteAnswered : Prop :=
  ∀ (s : State) (t : MTag) (a : MemAnswer) (src : Source) (tag : ReqTag), s.power = true → s.mem.wf = true →
    s.awaits t (.passWrite src tag) →
    ∃ m u, exec (.passWriteAnswered t a) s = .next u ∧ AnswerTaken s m t a ∧
      DataPhasesBegin { m with host := { s.host with
        inflight := s.host.inflight.map fun e => if e.source = src ∧ e.tag = tag then { e with stage := .done } else e
        responses := s.host.responses ++
          [⟨src, tag, if isErrorAnswer a = true then .failed .memError else .done [], true⟩] } } u

/-! ### The journaled write -/

/-- The before-image read of a record is answered DONE (R65): its write goes to REC_WRITE with the record of its header
and the bytes read handed over. In FAULTED the answer is discarded, whether the write is still there or was answered at
the fault entry (R75). The bytes of a record write (R7, R168): check word, kind, slots, key byte, outcome, position,
generation, back distance, line, first byte, byte count and record count, each little-endian at its offset; for a BEFORE
then its payload and zeros to the end of its ring slots. A header read back has each field at that offset, the key from
bits 6 to 0 of its byte (bit 7 is ignored, log 21), so the bytes built give the header's fields back. The check word is
the CRC-32C of header bytes 4 to 31 and, for a BEFORE, of the payload; a record read back passes when the word computed
again is the one stored (R8; a payload not read whole fails, log 20). -/
def Obligations.BiReadDone : Prop :=
  (∀ (s : State) (t : MTag) (raced : List Byte) (pos : Nat), s.power = true → s.awaits t (.biRead pos) →
    (s.tag t).req.write = false →
    ∃ m u, exec (.biReadDone t raced) s = .next u ∧ AnswerTaken s m t (.done raced) ∧ m.mem = s.mem ∧
      (s.bridge = .faulted → u = m) ∧
      ∀ (h : Header) (e : Inflight), s.bridge ≠ .faulted → s.windowAt pos = some h → s.ownerOf pos = some e →
        let bytes := h.bytesWith (s.readData t raced)
        u = { m with
          mport := { m.mport with logQ := s.mport.logQ ++
            [⟨.recordWrite h.pos false, true, s.geo.slotAddr h.pos, bytes.length, spanMask 96 0 bytes.length, bytes⟩] }
          host := { s.host with inflight := s.host.inflight.map fun x =>
            if x.source = e.source ∧ x.tag = e.tag ∧ x.stage ≠ .done then { x with stage := .recWrite } else x } }) ∧
  (∀ (h : Header) (payload : List Byte), h.slots < 256 → h.pos < 2 ^ 64 → h.gen < 2 ^ 32 → h.back < 2 ^ 32 →
    h.line < 2 ^ 32 → h.first < 256 → h.count < 256 → h.records < 65536 →
    let laid : List Byte → Prop := fun b => field b 4 1 = h.kind.code ∧ field b 5 1 = h.slots ∧
      field b 6 1 = h.key.source.val * 16 + h.key.group.val ∧ field b 7 1 = (if h.unrestored = true then 1 else 0) ∧
      field b 8 8 = h.pos ∧ field b 16 4 = h.gen ∧ field b 20 4 = h.back ∧ field b 24 4 = h.line ∧
      field b 28 1 = h.first ∧ field b 29 1 = h.count ∧ field b 30 2 = h.records
    let readBack : List Byte → Prop := fun b =>
      RawHeader.parse b = ⟨field b 0 4, h.kind.code, h.slots, h.key.source.val * 16 + h.key.group.val,
        if h.unrestored = true then 1 else 0, h.pos, h.gen, h.back, h.line, h.first, h.count, h.records⟩ ∧
      Key.ofByte (RawHeader.parse b).keyByte = h.key
    (h.bytes.length = 32 ∧ laid h.bytes ∧ readBack h.bytes ∧ field h.bytes 0 4 = crc32c (h.bytes.drop 4) ∧
      (h.kind ≠ .before → (RawHeader.parse h.bytes).checkPasses h.bytes = true)) ∧
    (h.kind = .before → payload.length = h.count → 32 + h.count ≤ 32 * h.slots →
      let b := h.bytesWith payload
      b.length = 32 * h.slots ∧ laid b ∧ readBack b ∧ (b.drop 32).take h.count = payload ∧
        (b.drop (32 + h.count)).all (fun x => decide (x = 0)) = true ∧
        field b 0 4 = crc32c ((b.drop 4).take (28 + h.count)) ∧ (RawHeader.parse b).checkPasses b = true)) ∧
  (∀ b : List Byte,
    let h := RawHeader.parse b
    h.check = field b 0 4 ∧ h.kind = field b 4 1 ∧ h.slots = field b 5 1 ∧ h.keyByte = field b 6 1 ∧
      h.outcome = field b 7 1 ∧ h.pos = field b 8 8 ∧ h.gen = field b 16 4 ∧ h.back = field b 20 4 ∧
      h.line = field b 24 4 ∧ h.first = field b 28 1 ∧ h.count = field b 29 1 ∧ h.records = field b 30 2 ∧
      (Key.ofByte h.keyByte).source.val = field b 6 1 / 16 % 8 ∧ (Key.ofByte h.keyByte).group.val = field b 6 1 % 16) ∧
  ∀ b : List Byte, (RawHeader.parse b).checkPasses b = true ↔
    (field b 4 1 ≠ 1 → crc32c ((b.drop 4).take 28) = field b 0 4) ∧
    (field b 4 1 = 1 → ((b.drop 32).take (field b 29 1)).length = field b 29 1 ∧
      crc32c ((b.drop 4).take 28 ++ (b.drop 32).take (field b 29 1)) = field b 0 4)

/-- A record that will not be a BEFORE: its before-image read fails (BI_READ_FAILED: R17, R70), or its first record write
fails (RECORD_WRITE_FAILED: R18, R71). The record in the window becomes a VOID, the VOID header's write is handed over (a
retry in the second case), RECORD_VOIDED is posted, the write is answered FAILED with MEM_ERROR, its group's in-flight
count falls, and the error counts; the group is not damaged (R49). With the group's last write answered the closing step
follows (R46, R96, R98), its refusals after the write's answer (log 29); then exactly the writes in FRONTIER_WAIT that may
begin their data phase do (R67; log 48). In FAULTED the failure is counted and nothing else: of any record, whether or not
its write is still there, nothing is retried or voided (R75). -/
def Obligations.RecordVoided : Prop :=
  ∀ (s : State) (t : MTag) (landed : BitVec 96) (pos : Nat), s.power = true → s.mem.wf = true →
    ∀ retry : Bool,
      (retry = false → s.awaits t (.biRead pos) ∧ (s.tag t).req.write = false) →
      (retry = true → s.awaits t (.recordWrite pos false)) →
      let c : Instr := if retry = true then .recordWriteFailed t landed else .biReadFailed t
      ∃ m u, exec c s = .next u ∧ AnswerTaken s m t (.error (if retry = true then landed else 0)) ∧
        (retry = false → m.mem = s.mem) ∧
        (s.bridge = .faulted → u = m) ∧
        ∀ (h : Header) (e : Inflight) (i : SlotNo), s.bridge ≠ .faulted → s.windowAt pos = some h → h.kind = .before →
          s.ownerOf pos = some e → (∃ l k d r, e.work = .journaled l k d i r) →
          let void : Header := { h with kind := .void }
          let voided : State := { m with
            log := { s.log with window := s.log.window.map fun r => if r.pos = pos then { r with kind := .void } else r }
            mport := { m.mport with logQ := s.mport.logQ ++
              [⟨.recordWrite pos retry, true, s.geo.slotAddr pos, 32, spanMask 96 0 32, void.bytes⟩] }
            notes := (m.post .recordVoided h.key (if retry = true then .writeError else .readError) h.count pos).notes }
          ∃ d, ClosingStepTaken (voided.withWriteAnswered e.source e.tag i (.failed .memError)) d i ∧ DataPhasesBegin d u

/-- A record write answered DONE (R14, R52, R66) that completes no closing record: none is noted, or each noted one still
has a record below or at it in the window; or the bridge is FAULTED, where the report is not acted on (R146). Memory takes
the record, it leaves the append window, RECORDS counts it, and a BEFORE counts its bytes, widens its line's logged mask
by its span and takes its write to FRONTIER_WAIT; then exactly the writes in FRONTIER_WAIT that may begin their data phase
do (R15, R67; their order in the TRAFFIC queue is the model's, log 48). When a window place is left beside the closing
records that are due (the list of log 13), it passes to the admission unit: the held entries that wait for one are marked
and a pause for one ends (R12, R62, R81). A recovery that was to stop, and waited for nothing else, returns the bridge to
GATED (R133; log 18), requests of the rollback engine staying without a requester (R121; log 27). -/
def Obligations.RecordWriteDone : Prop :=
  ∀ (s : State) (t : MTag) (pos : Nat) (retry : Bool) (h : Header), s.power = true → s.mem.wf = true →
    s.awaits t (.recordWrite pos retry) → s.windowAt pos = some h →
    (s.bridge = .faulted ∨ ∀ i p, (s.slot i).closing = some p → ∃ r ∈ s.log.window, r.pos ≠ pos ∧ r.pos ≤ p) →
    ∃ m d u, exec (.recordWriteDone t) s = .next u ∧ RecordDurable s m t h ∧ DataPhasesBegin m d ∧
      StopPointMet d.withPlacePassed u

/-- A record write is answered DONE and with it closing records come to lie wholly behind the frontier, as itself or as
ones above the record (R14, R16): they complete one after the other, the lowest position first, each as `GroupEnded` says
- its group committed (R97), rolled back (R104, R141) or released (R107), the slot FREE, its claims gone, its waiter
answered, counters and notice (R109), the held entries its close signals marked (R57, R81; log 31, 42), the volatile tail
recomputed and an anchor written, its contents fixed at the hand-over (log 15), or a follow-up noted (R21). Then exactly
the writes in FRONTIER_WAIT that may begin their data phase do (R67; log 48), a window place left beside the records due
(log 13) passes to the admission unit (R12, R81), and a recovery that was to stop and waits for nothing else returns the
bridge to GATED (R133; log 18), where requests of the rollback engine stay queued and outstanding with no requester (R121;
log 27); the group ends first, so GROUP_ROLLED_BACK is posted before RECOVERY_FAILED (R133, R141 and R162 give no order: the
model's choice, log 55). -/
def Obligations.GroupEnds : Prop :=
  (∀ s : State, s.IsVolatileTail s.lowestFirst) ∧
  ∀ (s : State) (t : MTag) (pos : Nat) (retry : Bool) (h : Header) (ends : List SlotNo), s.power = true →
    s.mem.wf = true → s.awaits t (.recordWrite pos retry) → s.windowAt pos = some h → s.bridge ≠ .faulted →
    ends ≠ [] →
    (∀ i, i ∈ ends ↔ ∃ p, (s.slot i).closing = some p ∧ p < s.log.head ∧ ∀ r ∈ s.log.window, r.pos ≠ pos → p < r.pos) →
    (ends.Pairwise fun i j => ∀ p q, (s.slot i).closing = some p → (s.slot j).closing = some q → p < q) →
    (∀ i ∈ ends, (s.slot i).state = .committing ∨ (s.slot i).state = .rollingBack ∨ (s.slot i).state = .broken) →
    ∃ m n d u, exec (.recordWriteDone t) s = .next u ∧ RecordDurable s m t h ∧ GroupsEnd ends m n ∧
      DataPhasesBegin n d ∧ StopPointMet d.withPlacePassed u

/-- A record other than a BEFORE whose first write fails is written again with the same header (R18); in FAULTED no record
of any kind is (R75, R146). A retry that fails puts the bridge in FAULTED with detail LOG_WRITE and the record's position,
in RUNNING, DRAINING and RECOVERING (R18, R145; the order of the responses decided in that step is the model's, log 29,
and that an anchor write handed over is not withdrawn, log 49; nor a walk READ of a recovery that has ended, log 54), in
RECOVERING after RECOVERY_FAILED with MEM_ERROR (R143), a recovery that is to stop included (R133); elsewhere it is only
counted (R145 names those three states: log 38). -/
def Obligations.RecordRetry : Prop :=
  ∀ (s : State) (t : MTag) (landed : BitVec 96) (pos : Nat), s.power = true → s.mem.wf = true →
    (s.awaits t (.recordWrite pos false) → ∃ m u, exec (.recordWriteFailed t landed) s = .next u ∧
      AnswerTaken s m t (.error landed) ∧ (s.bridge = .faulted → u = m) ∧
      ∀ h, s.bridge ≠ .faulted → s.windowAt pos = some h → h.kind ≠ .before →
        u = { m with mport := { m.mport with logQ := s.mport.logQ ++
          [⟨.recordWrite h.pos true, true, s.geo.slotAddr h.pos, 32, spanMask 96 0 32, h.bytes⟩] } }) ∧
    (s.awaits t (.recordWrite pos true) → ∃ m u, exec (.recordRetryFailed t landed) s = .next u ∧
      AnswerTaken s m t (.error landed) ∧
      (s.bridge = .running ∨ s.bridge = .draining ∨ s.bridge = .recovering →
        EnteredFaulted m u .logWrite pos ∧
          u.notes = ((if s.bridge = .recovering then m.post .recoveryFailed Key.zero .memError 0 pos else m).post
            .logFaulted Key.zero .logWrite 0 pos).notes) ∧
      (s.bridge = .gated ∨ s.bridge = .halted ∨ s.bridge = .faulted → u = m))

/-- A journaled write's data write is answered (R68, R72), which gives the whole next state. DONE, the write is answered
DONE. Failed, the error counts, the group is damaged whatever its state, the held writes of an OPEN group's key are
refused with DAMAGED and the entries that wait on them by ORDER are marked (R49, R84, R86), and the write is answered
FAILED with MEM_ERROR after them (the order is the model's, log 29). Either way memory takes the bytes that landed, the
group's in-flight count falls, and with its last write answered the closing step follows (R46): of a COMMITTING group the
COMMIT record is due, or, damaged, it is in ROLLBACK_WAIT with cause DAMAGED, its waiter kept, and in the rollback queue
(R96); a ROLLBACK_WAIT one joins the queue (R98), refusals of that step after the write's answer (log 29); in FAULTED none
of these (R146). No record, mask or claim changes. -/
def Obligations.DataWriteAnswered : Prop :=
  ∀ (s : State) (t : MTag) (landed : BitVec 96) (src : Source) (tag : ReqTag) (i : SlotNo) (l : Nat) (mask : BitVec 64)
    (d : List Byte) (r : Option RecordSpan) (st : Stage), s.power = true → s.mem.wf = true →
    s.awaits t (.dataWrite src tag) → s.findInflight src tag = some ⟨src, tag, .journaled l mask d i r, st⟩ →
    (∃ m u, exec (.dataWriteDone t) s = .next u ∧ AnswerTaken s m t (.done []) ∧
      ClosingStepTaken (m.withWriteAnswered src tag i (.done [])) u i) ∧
    (∃ m v u, exec (.dataWriteFailed t landed) s = .next u ∧ AnswerTaken s m t (.error landed) ∧ SlotDamaged m v i ∧
      ClosingStepTaken (v.withWriteAnswered src tag i (.failed .memError)) u i)

/-! ### Anchors -/

/-- A running anchor write is answered. DONE (R20, R21), it is the newest durable anchor, its tail the persisted tail and
the failure count 0; when free slots rise the entries held for LOG_SPACE are marked (R11) and the low-water comparison is
made (R24); then exactly the writes in FRONTIER_WAIT that may begin their data phase do, an ACTIVE one having opened the
clean barrier (R15, R22, R67; log 48), and a noted follow-up is written at once when the volatile tail has moved past it,
its contents fixed at the hand-over (log 15). Entries are marked whatever their room note (log 42). A running or drain
anchor failing (R23) posts ANCHOR_ERROR: the first failure waits 1 ms for its retry, the second puts the bridge in FAULTED
(the order of the responses decided then: log 29; what is not withdrawn: logs 49, 54). In FAULTED a write handed over
before its entry is adopted when DONE (the model's choice, log 49) and, failing, is posted and counted and not retried
(the model's reading, log 16). ANCHOR_RETRY writes the same copy with the contents current then (R23, R128). -/
def Obligations.AnchorWriteAnswered : Prop :=
  ∀ (s : State) (t : MTag) (landed : BitVec 96) (c : Copy), s.power = true → s.mem.wf = true →
    let write : Copy → Anchor → MReq := fun k a => ⟨.anchorWrite, true, s.geo.anchorAddr k, 64, spanMask 96 0 64, a.bytes⟩
    (∀ a, s.awaits t .anchorWrite → s.log.anchorOp = .writing c a .running →
      let next : Anchor := ⟨a.serial + 1, s.log.gen, .active, s.geo.exponent, s.log.volatileTail⟩
      let follows : Prop := s.log.followUp = true ∧ s.bridge = .running ∧ a.tail < s.log.volatileTail
      ∃ m n d u, exec (.anchorWriteDone t) s = .next u ∧ AnswerTaken s m t (.done []) ∧ AnchorAdopted m n c a ∧
        DataPhasesBegin n d ∧
        (¬ follows → u = { d with log := { d.log with followUp := false } }) ∧
        (follows → u = { d with
          log := { d.log with followUp := false, anchorOp := .writing c.other next .running }
          mport := { d.mport with logQ := s.mport.logQ ++ [write c.other next] } })) ∧
    (∀ a use, use = .running ∨ use = .drain → s.awaits t .anchorWrite → s.log.anchorOp = .writing c a use →
      s.bridge = .running ∨ s.bridge = .draining →
      ∃ m u, exec (.anchorWriteFailed t landed) s = .next u ∧ AnswerTaken s m t (.error landed) ∧
        (s.log.failures = 0 → u = { m with
          log := { s.log with failures := 1, anchorOp := .retryWait c (s.now + 1000) use, followUp := false }
          notes := (m.post .anchorError Key.zero (.copy c) 0 0).notes }) ∧
        (1 ≤ s.log.failures →
          u.notes = ((m.post .anchorError Key.zero (.copy c) 0 0).post .logFaulted Key.zero .anchorWrite 0 0).notes ∧
          EnteredFaulted { m with log := { s.log with failures := s.log.failures + 1, anchorOp := .idle } } u
            .anchorWrite 0)) ∧
    (∀ a use, use = .running ∨ use = .drain → s.awaits t .anchorWrite → s.log.anchorOp = .writing c a use →
      s.bridge ≠ .running → s.bridge ≠ .draining →
      ∃ m, AnswerTaken s m t (.error landed) ∧ exec (.anchorWriteFailed t landed) s = .next { m with
        log := { s.log with failures := s.log.failures + 1, anchorOp := .idle }
        notes := (m.post .anchorError Key.zero (.copy c) 0 0).notes }) ∧
    (∀ due use, s.log.anchorOp = .retryWait c due use →
      let a : Anchor := ⟨(s.log.newest.map (·.serial)).getD 0 + 1, s.log.gen,
        if use = .drain ∧ s.slotsInUse = 0 then .clean else .active, s.geo.exponent, s.log.volatileTail⟩
      let may : Prop := due ≤ s.now ∧ (s.bridge = .running ∨ s.bridge = .draining)
      (may → exec .anchorRetry s = .next { s with
        log := { s.log with anchorOp := .writing c a use }
        mport := { s.mport with logQ := s.mport.logQ ++ [write c a] } }) ∧
      (¬ may → exec .anchorRetry s = .next s))

/-! ### The rollback engine -/

/-- The idle rollback engine takes the slot at the front of its queue in RUNNING or RECOVERING: the slot is ROLLING_BACK
and the READ of its newest record is handed over (R99, R100). A recovery that is to stop takes no slot, though R99 names
RECOVERING without exception: R133 stops it (the model's reading, log 18). Where no slot is to be taken - then, while the
engine walks, in another bridge state, or with the queue empty - the row changes nothing (the model's choice, log 4). -/
def Obligations.RollbackTakesSlot : Prop :=
  ∀ s : State, s.power = true →
    let may : Prop := s.grp.walk = none ∧ (s.bridge = .running ∨ (s.bridge = .recovering ∧ s.stopping = false))
    (¬ may ∨ s.grp.queue = [] → exec .rollbackTakeSlot s = .next s) ∧
    (∀ i rest, may → s.grp.queue = i :: rest →
      let pos := (s.slot i).newest
      exec .rollbackTakeSlot s = .next { s with
        grp := { s.grp with
          slots := s.grp.slots.set i { s.slot i with state := .rollingBack }
          queue := rest
          walk := some ⟨i, pos, .reading, .none⟩ }
        mport := { s.mport with rollbackQ := s.mport.rollbackQ ++
          [⟨.walkRead pos, false, s.geo.slotAddr pos, 32 * min 3 (s.geo.slotsLeft pos), 0, []⟩] } })

/-- A walk READ is answered, in every bridge state and phase of the walk (R100 to R105, R125). The READ of the record at
the walk position: DONE, the record is tested and taken as `RecordConsidered` says; an ERROR fails the walk with
MEM_ERROR. A read-ahead, while the restore before it is outstanding: DONE, its bytes are kept (R101); an ERROR fails the
walk at its own position at once (the model's reading, log 37). A read-ahead of a walk stopped by a drain: its bytes or
its failure are kept for the resumption (R125). A walk that fails in RECOVERING puts the bridge in FAULTED (R143; the
order of the responses decided then: log 29; what is not withdrawn: logs 49, 54). In FAULTED the answer is discarded (R108),
and so is a read-ahead of a recovery that is to stop, which the READ at the walk position lets stop (R133; logs 18, 27).
Of a failed walk, the engine is idle once nothing of it is outstanding (R105). The model's own: a failed walk withdraws a
restore handed over and not issued (R105, R118; log 51); a restore joins the queue before the READ read ahead (R101; log
26); a payload not read whole fails the check, bit 7 of a key byte is ignored, positions count modulo 2^64 (R100; logs 20,
21, 22). -/
def Obligations.WalkReadAnswered : Prop :=
  ∀ (s : State) (t : MTag) (pos : Nat), s.power = true → s.awaits t (.walkRead pos) → (s.tag t).req.write = false →
    let gives : MemAnswer → (State → State → Prop) → Prop := fun a leaves =>
      ∃ m u, exec (.walkReadAnswered t a) s = .next u ∧ AnswerTaken s m t a ∧ m.mem = s.mem ∧ leaves m u
    let discards : Prop := ∀ a, gives a fun m u => u = m
    (s.grp.walk = none → discards) ∧
    ∀ w, s.grp.walk = some w →
      (w.phase = .ending → ∀ a, gives a EngineEnds) ∧
      (w.phase ≠ .ending → s.bridge = .faulted → discards) ∧
      (w.phase = .reading → s.bridge ≠ .faulted →
        (∀ raced, s.stopping = false →
          gives (.done raced) fun m u => RecordConsidered m u w (s.readData t raced)) ∧
        (∀ raced, s.stopping = true → gives (.done raced) StopPointMet) ∧
        ∀ x, gives (.error x) fun m u => WalkEndsBroken m u w .memError w.pos) ∧
      (∀ back, w.phase = .restoring back → s.bridge ≠ .faulted →
        (s.stopping = true → discards) ∧
        (s.stopping = false →
          (∀ raced, gives (.done raced) fun m u =>
            u = { m with grp := { s.grp with walk := some { w with ahead := .kept (s.readData t raced) } } }) ∧
          ∀ x, gives (.error x) fun m u => WalkEndsBroken m u w .memError pos)) ∧
      (w.phase = .suspended → s.bridge ≠ .faulted →
        (∀ raced, s.stopping = false → gives (.done raced) fun m u =>
          u = { m with grp := { s.grp with walk := some { w with ahead := .kept (s.readData t raced) } } }) ∧
        ∀ x, gives (.error x) fun m u => u = { m with grp := { s.grp with walk := some { w with ahead := .keptError } } })

/-- A restore is answered, in every bridge state (R101 to R103, R105, R125): DONE, memory holds the old bytes, and after
the group's first record its RESTORED record is due; otherwise the walk takes up the next record as `RecordTakenUp` says,
with the answer of its read-ahead where that is kept, or stops there in DRAINING. An ERROR fails the walk with MEM_ERROR,
in FAULTED too, and in RECOVERING it puts the bridge in FAULTED (R108, R133, R143; the order of the responses decided
then: log 29; what is not withdrawn: logs 49, 54). In FAULTED a restore DONE moves nothing (R108), and the restore of a
recovery that is to stop lets it stop (R133; logs 18, 27). Of a failed walk, the engine is idle once nothing of it is
outstanding (R105). The model's own: a failed walk withdraws a request handed over and not issued (R105, R118; log 51); a
restore joins the queue before the READ read ahead (R101; log 26); the reading of the record (logs 20, 21, 22). -/
def Obligations.RestoreAnswered : Prop :=
  ∀ (s : State) (t : MTag), s.power = true → s.mem.wf = true → s.awaits t .restore →
    let gives : MemAnswer → (State → State → Prop) → Prop := fun a leaves =>
      ∃ m u, exec (.restoreAnswered t a) s = .next u ∧ AnswerTaken s m t a ∧ leaves m u
    (s.grp.walk = none → ∀ a, gives a fun m u => u = m) ∧
    ∀ w, s.grp.walk = some w →
      (w.phase = .ending → ∀ a, gives a EngineEnds) ∧
      (w.phase = .reading ∨ w.phase = .suspended → ∀ a, gives a fun m u => u = m) ∧
      ∀ back, w.phase = .restoring back →
        let done := gives (.done [])
        (∀ landed, gives (.error landed) fun m u => WalkEndsBroken m u w .memError w.pos) ∧
        (s.bridge = .faulted → done fun m u => u = m) ∧
        (s.bridge ≠ .faulted → s.stopping = true → done StopPointMet) ∧
        (s.bridge ≠ .faulted → s.stopping = false →
          (back = 0 → done fun m u => u = { m with
            grp := { s.grp with walk := none }
            log := { s.log with due := s.log.due ++ [⟨w.slot, .restored⟩] } }) ∧
          (back ≠ 0 → s.bridge = .draining → done fun m u =>
            u = { m with grp := { s.grp with walk := some { w with pos := w.pos - back, phase := .suspended } } }) ∧
          (back ≠ 0 → s.bridge ≠ .draining → done fun m u => RecordTakenUp m u w (w.pos - back)))

/-! ### Power-fail, drain and resume -/

/-- PFW's edges by the bridge state (R87, R122, R123, R130, R133): an assertion in RUNNING begins a drain and refuses
every held request with HALTED, before a paused front request is decided again, as `DrainEntered` says (R62; R123 and R30
give no order between the two: the model's choice, log 47), in HALTED it stops the resume delay. In RECOVERING, unless the
final anchor's write has been issued, it makes recovery stop: closing records that are due and an anchor write that is not
issued are dropped, the M-port's other requests stay (R121); at the stop point the bridge is back in GATED, and before it
recovery waits, for an answer or for a record in the window (R133; log 18; requests that stay reach no requester, log 27).
A deassertion in HALTED under AUTO starts the resume delay. Elsewhere PFW is only shown, and an edge to the level that is
there already is none. -/
def Obligations.PfwEdges : Prop :=
  ∀ s : State, s.power = true →
    let shown : State := { s with pfwHigh := !s.pfwHigh }
    (s.pfwAsserted = true → exec .pfwAssert s = .next s) ∧ (s.pfwAsserted = false → exec .pfwDeassert s = .next s) ∧
    (s.pfwAsserted = false →
      (s.bridge = .gated ∨ s.bridge = .draining ∨ s.bridge = .faulted → exec .pfwAssert s = .next shown) ∧
      (s.bridge = .halted → exec .pfwAssert s = .next { shown with resumeAt := none }) ∧
      (s.bridge = .running → ∃ u, exec .pfwAssert s = .next u ∧ DrainEntered shown u) ∧
      (∀ o, s.bridge = .recovering → s.start = some o →
        let issued : Prop :=
          (∃ c a, s.log.anchorOp = .writing c a .recovery) ∧ ∃ t, s.awaits t .anchorWrite
        let m : State := { shown with
          start := some { o with stopping := true }
          log := { s.log with due := [], anchorOp := .idle }
          mport := { s.mport with
            logQ := s.mport.logQ.filter fun q => decide (q.ref ≠ .anchorWrite)
            rollbackQ := s.mport.rollbackQ.filter fun q => decide (q.ref ≠ .anchorWrite)
            trafficQ := s.mport.trafficQ.filter fun q => decide (q.ref ≠ .anchorWrite) } }
        (issued → exec .pfwAssert s = .next shown) ∧
        (¬ issued → m.AtStopPoint → exec .pfwAssert s = .next (m.backInGated .power 0)) ∧
        (¬ issued → ¬ m.AtStopPoint → exec .pfwAssert s = .next m))) ∧
    (s.pfwAsserted = true →
      (s.bridge = .halted → s.link.policy.resumePolicy = .auto → exec .pfwDeassert s =
        .next { shown with resumeAt := some (s.now + s.link.policy.resumeDelay * 1000) }) ∧
      (¬ (s.bridge = .halted ∧ s.link.policy.resumePolicy = .auto) → exec .pfwDeassert s = .next shown))

/-- The drain ends when no write is in flight, no slot is COMMITTING, no record is pending, the walk is idle or stopped,
and no anchor write is outstanding or waits (R127): the drain anchor is handed over, CLEAN when every slot is FREE,
otherwise ACTIVE. Its answer DONE makes it the newest durable anchor and brings HALTED with DRAIN_DONE, and under AUTO
with PFW deasserted the resume delay (R128, R130); a drain that a fault has ended posts nothing (R145). Of R127 the model
reads that no closing record may be due either (log 13), and that a write is in flight until it is answered (log 36). A
walk that has failed while its read-ahead READ is outstanding keeps the drain from ending until the answer: R105 calls the
engine idle only then, R125 says that an outstanding read-ahead READ does not keep it from being stopped (the model's
choice, log 53). The drain anchor's contents are those of its hand-over (log 15), and a LOG_LOW that its adoption posts
comes before DRAIN_DONE (R24, R162: the model's choice, log 41). -/
def Obligations.DrainEnds : Prop :=
  ∀ s : State, s.power = true →
    let drained : Prop := s.bridge = .draining ∧ (∀ e ∈ s.host.inflight, e.work.isWrite = true → e.stage = .done) ∧
      (∀ i, (s.slot i).state ≠ .committing) ∧ s.log.window = [] ∧ s.log.due = [] ∧
      (∀ w, s.grp.walk = some w → w.phase = .suspended) ∧ s.log.anchorOp = .idle
    let a : Anchor := ⟨(s.log.newest.map (·.serial)).getD 0 + 1, s.log.gen,
      if ∀ i, (s.slot i).state = .free then .clean else .active, s.geo.exponent, s.log.volatileTail⟩
    (¬ drained → exec .drainEnd s = .next s) ∧
    (drained → exec .drainEnd s = .next { s with
      log := { s.log with anchorOp := .writing s.nextCopy a .drain }
      mport := { s.mport with logQ := s.mport.logQ ++
        [⟨.anchorWrite, true, s.geo.anchorAddr s.nextCopy, 64, spanMask 96 0 64, a.bytes⟩] } }) ∧
    (∀ t c b, s.mem.wf = true → s.awaits t .anchorWrite → s.log.anchorOp = .writing c b .drain →
      ∃ m n u, exec (.drainDone t) s = .next u ∧ AnswerTaken s m t (.done []) ∧ AnchorAdopted m n c b ∧
        (s.bridge = .draining → u = { n with
          bridge := .halted
          notes := (n.post .drainDone Key.zero (.anchorState b.state) s.slotsInUse b.tail).notes
          resumeAt := if s.link.policy.resumePolicy = .auto ∧ s.pfwAsserted = false
            then some (s.now + s.link.policy.resumeDelay * 1000) else s.resumeAt }) ∧
        (s.bridge ≠ .draining → u = n))

/-- RESUME in HALTED with PFW deasserted, and the resume delay's expiry in HALTED, return the bridge to RUNNING with
RESUMED posted; a walk stopped by the drain takes up its record as `RecordTakenUp` says: read now, awaited, or taken with
the kept answer and its tests or the kept failure, whose GROUP_BROKEN follows RESUMED (R125, R130 to R132; that order is
the model's choice, log 46). A walk that fails then withdraws what is handed over and not issued (R105; log 51), a restore
joins the queue before the READ read ahead (R101; log 26), and a record is read as logs 20, 21 and 22 say. RESUME is
answered OK, and STATE elsewhere; an expiry before its time changes nothing (the model's choice, log 4). -/
def Obligations.ResumeReturns : Prop :=
  ∀ s : State, s.power = true →
    let resumed : ResumePolicy → State := fun p =>
      ({ s with bridge := .running, resumeAt := none } : State).post .resumed Key.zero (.resume p) s.slotsInUse s.log.head
    let stays : Prop := ∀ w, s.grp.walk = some w → w.phase ≠ .suspended
    (s.link.state = .idle → ¬ (s.bridge = .halted ∧ s.pfwAsserted = false) →
      exec .resume s = .next (s.answerLink .state [])) ∧
    (s.link.state = .idle → s.bridge = .halted → s.pfwAsserted = false →
      (stays → exec .resume s = .next ((resumed .manual).answerLink .ok [])) ∧
      (∀ w, s.grp.walk = some w → w.phase = .suspended → ∃ u, exec .resume s = .next (u.answerLink .ok []) ∧
        RecordTakenUp { resumed .manual with link := u.link } u w w.pos)) ∧
    (¬ (s.bridge = .halted ∧ ∃ d, s.resumeAt = some d ∧ d ≤ s.now) → exec .resumeDelayExpiry s = .next s) ∧
    (∀ d, s.resumeAt = some d → d ≤ s.now → s.bridge = .halted →
      (stays → exec .resumeDelayExpiry s = .next (resumed .auto)) ∧
      (∀ w, s.grp.walk = some w → w.phase = .suspended → ∃ u, exec .resumeDelayExpiry s = .next u ∧
        RecordTakenUp (resumed .auto) u w w.pos))

/-- What the resets leave. A warm reset keeps regions, geometry, straps, lock level, policy values, notice mask and memory,
marks the outstanding requests as pre-reset, and empties everything else (R31, R41, R43, R50, R76, R113, R120, R134, R160,
R161, R167). A power-on reset empties everything, samples the straps, and sets policy values, mask and lock to their
values (R153, R154, R160, R165). Without supply the part keeps nothing but its pins (R110; log 1, 3, 8, 9). -/
def Obligations.Resets : Prop :=
  ∀ s : State,
    let host : HostSide := ⟨[], none, [], [], []⟩
    let grp : GroupSide :=
      ⟨Vector.replicate 4 ⟨.free, ⟨0, 0⟩, 0, 0, 0, 0, 0, none, false, none, none, none⟩, [], [], none⟩
    let log : Option Geometry → LogSide := fun g => ⟨g, 0, 0, 0, 0, none, [], [], .idle, false, 0, true⟩
    let fresh : State → Fin 4 → Bool → Prop := fun t straps pfw =>
      t.bridge = .gated ∧ t.start = none ∧ t.regions = Vector.replicate 8 ⟨false, 0, 0, .pass, .refuse⟩ ∧ t.host = host ∧
        t.grp = grp ∧ t.log = log none ∧ (t.mport.logQ = [] ∧ t.mport.rollbackQ = [] ∧ t.mport.trafficQ = []) ∧
        (∀ i, (t.tag i).state = .free) ∧ t.mport.last = .traffic ∧
        t.link = ⟨straps, .idle, .none, 0, ⟨.hold, 1000, 0, .rollback, 0, .auto, 10, .activeLow⟩⟩ ∧
        t.notes = ⟨[], 0, 0b0010#4, ⟨0, 0, 0, 0, 0, 0, 0⟩⟩ ∧ t.pfwHigh = pfw ∧ t.resumeAt = none ∧
        t.pending = s.pending
    (s.power = true → ∃ t, exec .warmReset s = .next t ∧ t = { s with
        bridge := .gated
        start := none
        host := host
        grp := grp
        log := log s.log.geometry
        mport := t.mport
        link := { s.link with state := .idle, buffer := .none }
        notes := ⟨[], 0, s.notes.mask, ⟨0, 0, 0, 0, 0, 0, 0⟩⟩
        resumeAt := none } ∧
      t.mport.logQ = [] ∧ t.mport.rollbackQ = [] ∧ t.mport.trafficQ = [] ∧ t.mport.last = .traffic ∧
      ∀ i, ((s.tag i).state = .outstanding →
          t.tag i = { s.tag i with req := { (s.tag i).req with ref := .preReset } }) ∧
        ((s.tag i).state ≠ .outstanding → t.tag i = s.tag i)) ∧
    (∀ straps pfw landed, ∃ t, exec (.powerOnReset straps pfw landed) s = .next t ∧ t.power = true ∧
      fresh t straps pfw) ∧
    (s.power = true → ∀ landed, ∃ t, exec (.powerLoss landed) s = .next t ∧ t.power = false ∧
      fresh t s.link.straps s.pfwHigh)

/-! ### START, recovery and STOP -/

/-- START by its checks (R135): STATE without a geometry and outside GATED and FAULTED, BUSY in FAULTED while a write is
in flight, its response unsent included (log 36), or an M-port request is unanswered. When taken, the tables and positions
of the old run are emptied and both anchor READs are handed over, A's before B's (R111, R136 give no order: the model's
choice, log 52): FRESH stays executing (R137); RECOVER enters RECOVERING and is answered OK at once (R138). With PFW
asserted RECOVER is answered OK all the same, reads nothing, and the bridge is back in GATED with RECOVERY_FAILED POWER
(R133, R138). ROLLBACK requests of an old run stay queued and outstanding, and their answers will be discarded (R121,
R136; log 27). START RECOVER is not blocked at any lock level (R153). -/
def Obligations.StartTaken : Prop :=
  ∀ s : State, s.linkReady →
    let base := s.geo.base
    let busy : Prop := s.bridge = .faulted ∧ ((∃ e ∈ s.host.inflight, e.work.isWrite = true) ∨
      (∃ t, (s.tag t).state = .outstanding) ∨ ∃ c, s.mport.queue c ≠ [])
    let stateful : Prop := s.log.geometry ≠ none ∧ (s.bridge = .gated ∨ s.bridge = .faulted)
    let taken : StartMode → Bridge → LinkState → Buffer → List MReq → State := fun m b l a reads => { s with
      bridge := b
      start := some ⟨m, .anchors, .pending, .pending, 0, 0, 0, 0, 0, false⟩
      host := { s.host with holds := [] }
      grp := ⟨Vector.replicate 4 GroupSlot.free, [], [], none⟩
      log := ⟨s.log.geometry, 0, 0, 0, 0, none, [], [], .idle, false, 0, true⟩
      mport := { s.mport with
        tags := s.mport.tags.map TagEntry.stale
        logQ := s.mport.logQ.map MReq.stale
        trafficQ := s.mport.trafficQ.map MReq.stale
        rollbackQ := s.mport.rollbackQ.map MReq.stale ++ reads }
      link := { s.link with state := l, buffer := a } }
    let anchors : List MReq := [⟨.anchorRead .a, false, base, 64, 0, []⟩, ⟨.anchorRead .b, false, base + 64, 64, 0, []⟩]
    (¬ stateful → exec .startRecover s = .next (s.answerLink .state []) ∧
      (s.link.lock.val = 0 → exec .startFresh s = .next (s.answerLink .state []))) ∧
    (stateful → busy → exec .startRecover s = .next (s.answerLink .busy []) ∧
      (s.link.lock.val = 0 → exec .startFresh s = .next (s.answerLink .busy []))) ∧
    (stateful → ¬ busy →
      (s.link.lock.val = 0 → exec .startFresh s = .next (taken .fresh .gated (.executing 0x09 [1]) .none anchors)) ∧
      (s.pfwAsserted = false →
        exec .startRecover s = .next (taken .recover .recovering .idle (.answer .ok []) anchors)) ∧
      (s.pfwAsserted = true → exec .startRecover s = .next
        { taken .recover .gated .idle (.answer .ok []) [] with
          start := none
          notes := (s.post .recoveryFailed Key.zero .power 0 0).notes }))

/-- An anchor READ is answered (R136 to R138). The first of two is noted. When the second is: FRESH writes its first copy,
to the copy without the chosen anchor or to B, CLEAN with serial 1 and a generation one above the larger; RECOVER ends in
GATED with RECOVERY_FAILED for NO_ANCHOR or GEOMETRY, or takes tail and generation from the chosen anchor, to roll back
nothing when it is CLEAN, to scan from its tail when it is ACTIVE. An ERROR ends either mode, and what the M-port still
holds for it reaches no requester (log 27). In a recovery that is to stop, bytes read are discarded and let it stop (R133;
log 18). The bytes of an anchor (R19, R168): check word over bytes 4 to 63, signature, serial, generation, state, exponent
and tail, each little-endian at its offset, other bytes zero. A copy is valid when check word, signature, generation,
state and exponent pass (R19), and an anchor reads back as it was built. The chosen anchor is the valid copy with the
higher serial, A when they are equal (R136). Where the chosen anchor brings free slots from 0, without a newest one, to N,
no LOG_LOW comparison is made (R24: each time an anchor raises free slots; the model's reading, log 17). -/
def Obligations.AnchorReadAnswered : Prop :=
  (∀ (s : State) (t : MTag) (raced : List Byte) (c : Copy) (o : StartOp), s.power = true → s.awaits t (.anchorRead c) →
    (s.tag t).req.write = false → s.start = some o →
    let found := CopyRead.ofBytes (s.readData t raced)
    let o' : StartOp := if c = .a then { o with copyA := found } else { o with copyB := found }
    let both : Prop := o'.copyA ≠ .pending ∧ o'.copyB ≠ .pending
    let chosen := chooseAnchor o'.copyA o'.copyB
    let top := max o'.copyA.gen o'.copyB.gen
    let run := exec (.anchorReadAnswered t (.done raced)) s
    let failsWith : MemAnswer → Detail → Prop := fun a d => ∃ m, AnswerTaken s m t a ∧ m.mem = s.mem ∧
      exec (.anchorReadAnswered t a) s = .next (m.backInGated d 0)
    (o.stopping = true → ∃ m u, run = .next u ∧ AnswerTaken s m t (.done raced) ∧ m.mem = s.mem ∧ StopPointMet m u) ∧
    (o.stopping = false → ¬ both → ∃ m, AnswerTaken s m t (.done raced) ∧ m.mem = s.mem ∧
      run = .next { m with start := some o' }) ∧
    (o.stopping = false → both → o.mode = .fresh →
      let copy := (chosen.map fun p => p.1.other).getD .b
      let a : Anchor := ⟨1, if 2 ^ 32 ≤ top + 1 then 1 else top + 1, .clean, s.geo.exponent, 0⟩
      ∃ m, AnswerTaken s m t (.done raced) ∧ m.mem = s.mem ∧ run = .next { m with
        start := some { o' with phase := .freshWrites, topGen := top }
        log := { s.log with anchorOp := .writing copy a .freshFirst }
        mport := { m.mport with logQ := s.mport.logQ ++
          [⟨.anchorWrite, true, s.geo.anchorAddr copy, 64, spanMask 96 0 64, a.bytes⟩] } }) ∧
    (o.stopping = false → both → o.mode = .recover →
      (chosen = none → failsWith (.done raced) .noAnchor) ∧
      (∀ k a, chosen = some (k, a) →
        (a.exponent ≠ s.geo.exponent → failsWith (.done raced) .geometry) ∧
        (a.exponent = s.geo.exponent → ∃ m u, run = .next u ∧ AnswerTaken s m t (.done raced) ∧ m.mem = s.mem ∧
          u.IsVolatileTail u.log.volatileTail ∧ u = { m with
            start := some { o' with
              phase := if a.state = .clean then .rollback else .scan, topGen := top, tail := a.tail, scanPos := a.tail }
            log := { s.log with
              head := a.tail
              volatileTail := u.log.volatileTail
              persistedTail := a.tail
              gen := a.gen
              newest := some ⟨k, a.serial, a.state, a.tail⟩ }
            mport := { m.mport with rollbackQ := s.mport.rollbackQ ++ if a.state = .clean then [] else
              [⟨.scanRead, false, s.geo.slotAddr a.tail, 32 * min 3 (s.geo.slotsLeft a.tail), 0, []⟩] } }))) ∧
    (∀ x, (o.mode = .fresh → ∃ m, AnswerTaken s m t (.error x) ∧ m.mem = s.mem ∧
        exec (.anchorReadAnswered t (.error x)) s = .next { m with
          start := none
          log := { s.log with anchorOp := .idle }
          mport := m.mport.stale
          link := { s.link with state := .idle, buffer := .answer .memError [] } }) ∧
      (o.mode = .recover → failsWith (.error x) .memError))) ∧
  (∀ a : Anchor, a.serial < 2 ^ 64 → a.gen < 2 ^ 32 → a.exponent < 256 → a.tail < 2 ^ 64 →
    let b := a.bytes
    b.length = 64 ∧ field b 0 4 = crc32c (b.drop 4) ∧ field b 4 4 = 0x4A414E43 ∧ field b 8 8 = a.serial ∧
      field b 16 4 = a.gen ∧ field b 20 1 = (if a.state = .clean then 1 else 2) ∧ field b 21 1 = a.exponent ∧
      field b 22 2 = 0 ∧ field b 24 8 = a.tail ∧ (b.drop 32).all (fun x => decide (x = 0)) = true ∧
      (a.gen ≠ 0 → 7 ≤ a.exponent → a.exponent ≤ 21 → CopyRead.ofBytes b = .valid a)) ∧
  (∀ b : List Byte,
    let valid : Prop := crc32c ((b.drop 4).take 60) = field b 0 4 ∧ field b 4 4 = 0x4A414E43 ∧ field b 16 4 ≠ 0 ∧
      (field b 20 1 = 1 ∨ field b 20 1 = 2) ∧ 7 ≤ field b 21 1 ∧ field b 21 1 ≤ 21
    (¬ valid → CopyRead.ofBytes b = .invalid) ∧
    (valid → CopyRead.ofBytes b = .valid ⟨field b 8 8, field b 16 4, if field b 20 1 = 1 then .clean else .active,
      field b 21 1, field b 24 8⟩)) ∧
  ∀ (x y : CopyRead),
    (∀ a b, x = .valid a → y = .valid b →
      (b.serial ≤ a.serial → chooseAnchor x y = some (.a, a)) ∧ (a.serial < b.serial → chooseAnchor x y = some (.b, b))) ∧
    (∀ a, x = .valid a → (∀ b, y ≠ .valid b) → chooseAnchor x y = some (.a, a)) ∧
    (∀ b, (∀ a, x ≠ .valid a) → y = .valid b → chooseAnchor x y = some (.b, b)) ∧
    ((∀ a, x ≠ .valid a) → (∀ b, y ≠ .valid b) → chooseAnchor x y = none)

/-- START FRESH's copies are answered (R137), which gives the whole next state: after the first, the second with serial 2
goes to the other copy; after the second, the new log begins at position 0 with that anchor the newest, START is answered
OK, and the bridge is RUNNING, or with PFW asserted DRAINING as `DrainEntered` says (R123; its order, log 47). No LOG_LOW
comparison is made when free slots go from 0, which they read without a newest anchor, to N: R24 compares each time an
anchor raises free slots, and the model reads the new positions of R137 as no such rise (log 17). A failure posts
ANCHOR_ERROR and answers MEM_ERROR; the bridge stays, and requests of the rollback engine still in the M-port reach no
requester (log 27). -/
def Obligations.FreshAnchorAnswered : Prop :=
  ∀ (s : State) (t : MTag) (raced : List Byte) (landed : BitVec 96) (c : Copy) (a : Anchor), s.power = true →
    s.mem.wf = true → s.awaits t .anchorWrite →
    let run := exec (.freshAnchorAnswered t (.done raced)) s
    let second : Anchor := { a with serial := 2 }
    (s.log.anchorOp = .writing c a .freshFirst → ∃ m, AnswerTaken s m t (.done raced) ∧ run = .next { m with
      log := { s.log with anchorOp := .writing c.other second .freshSecond }
      mport := { m.mport with logQ := s.mport.logQ ++
        [⟨.anchorWrite, true, s.geo.anchorAddr c.other, 64, spanMask 96 0 64, second.bytes⟩] } }) ∧
    (s.log.anchorOp = .writing c a .freshSecond → ∃ m u, run = .next u ∧ AnswerTaken s m t (.done raced) ∧
      let begun : State := { m with
        bridge := .running
        start := none
        log := { s.log with
          head := 0
          volatileTail := 0
          persistedTail := 0
          gen := a.gen
          newest := some ⟨c, a.serial, a.state, a.tail⟩
          failures := 0
          anchorOp := .idle }
        link := { s.link with state := .idle, buffer := .answer .ok [] } }
      (s.pfwAsserted = false → u = begun) ∧ (s.pfwAsserted = true → DrainEntered begun u)) ∧
    (∀ use, use = .freshFirst ∨ use = .freshSecond → s.log.anchorOp = .writing c a use →
      ∃ m, AnswerTaken s m t (.error landed) ∧ exec (.freshAnchorAnswered t (.error landed)) s = .next { m with
        start := none
        log := { s.log with anchorOp := .idle }
        mport := m.mport.stale
        link := { s.link with state := .idle, buffer := .answer .memError [] }
        notes := (m.post .anchorError Key.zero (.copy c) 0 0).notes })

/-- A scan READ is answered in RECOVERING (R139 to R141). A record is valid when its kind, slot count, check word,
generation, position and room pass; its key, kind and back distance rebuild the group table by the rows of R140: a slot is
taken, extended or freed, the record is passed over or has no effect, or it is CORRUPT. The scan position moves past it
and the next record is read, until it reaches T + N. There, or at a record that is not valid, the scan ends: its position
is the head, and with enough free slots every OPEN slot waits for its rollback with cause RECOVERY, joining the queue in
the order of first positions. CORRUPT, of a record or of too few free slots, posts RECOVERY_FAILED and puts the bridge in
FAULTED (R143; the order of the responses decided then: log 29; what is not withdrawn: logs 49, 54); an ERROR ends
recovery in GATED (R139), its requests without a requester (log 27). In a recovery that is to stop the bytes read are
discarded and let it stop (R133; log 18). A payload not read whole fails the check, bit 7 of a key byte is ignored,
positions count modulo 2^64 (logs 20, 21, 22). The head's move at the scan's end makes no LOG_LOW comparison, since R24
names allocations and anchors (the model's reading, log 17). -/
def Obligations.ScanReadAnswered : Prop :=
  ∀ (s : State) (t : MTag) (raced : List Byte) (o : StartOp), s.power = true → s.awaits t .scanRead →
    (s.tag t).req.write = false → s.start = some o → s.bridge = .recovering →
    let bytes := s.readData t raced
    let h := RawHeader.parse bytes
    let p := o.scanPos
    let k := Key.ofByte h.keyByte
    let next := p + h.slots
    let stop := o.tail + s.geo.slots
    let run := exec (.scanReadAnswered t (.done raced)) s
    let valid : Prop :=
      (((h.kind = 1 ∨ h.kind = 2) ∧ 1 ≤ h.count ∧ h.count ≤ 64 ∧ h.first + h.count ≤ 64 ∧
          h.slots = (if h.count ≤ 32 then 2 else 3)) ∨
        ((h.kind = 3 ∨ h.kind = 4) ∧ h.slots = 1) ∨ (h.kind = 5 ∧ h.slots = s.geo.slotsLeft p)) ∧
      h.checkPasses bytes = true ∧ h.gen = s.log.gen ∧ h.pos = p % 2 ^ 64 ∧ next ≤ stop
    let corrupt : State → Nat → Prop := fun w pos => ∃ m u, run = .next u ∧ AnswerTaken s m t (.done raced) ∧
      m.mem = s.mem ∧ EnteredFaulted { w with mport := m.mport } u .recovery pos ∧
      u.notes = ((s.post .recoveryFailed Key.zero .corrupt 0 pos).post .logFaulted Key.zero .recovery 0 pos).notes
    let endsAt : Vector GroupSlot 4 → Nat → Prop := fun slots pos =>
      let w : State := ({ s with
        grp := { s.grp with slots := slots }
        log := { s.log with head := pos } } : State).recomputeTail
      let opened := allSlots.filter fun i => decide (slots[i].state = .opened)
      (s.log.newest ≠ none → s.log.geometry ≠ none → s.log.persistedTail = o.tail →
        w.freeSlots = s.geo.slots - (pos - o.tail)) ∧
      (w.freeSlots < opened.length → corrupt w pos) ∧
      (opened.length ≤ w.freeSlots → ∃ u order, run = .next u ∧ TagFreed s u t ∧ order.Perm opened ∧
        (order.Pairwise fun i j => slots[i].first ≤ slots[j].first) ∧
        (∀ i ∈ opened, u.slot i = { slots[i] with state := .rollbackWait, cause := some .recovery }) ∧
        (∀ i, i ∉ opened → u.slot i = slots[i]) ∧
        u = { w with
          start := some { o with scanPos := pos, phase := .rollback, scanned := pos - o.tail }
          grp := { s.grp with slots := u.grp.slots, queue := s.grp.queue ++ order }
          mport := { s.mport with tags := u.mport.tags } })
    let rebuilds : Vector GroupSlot 4 → Prop := fun slots =>
      (next < stop → ∃ u, run = .next u ∧ TagFreed s u t ∧ u.log.volatileTail = u.lowestFirst ∧ u = { s with
        start := some { o with scanPos := next }
        grp := { s.grp with slots := slots }
        log := { s.log with volatileTail := u.log.volatileTail }
        mport := { s.mport with tags := u.mport.tags, rollbackQ := s.mport.rollbackQ ++
          [⟨.scanRead, false, s.geo.slotAddr next, 32 * min 3 (s.geo.slotsLeft next), 0, []⟩] } }) ∧
      (next = stop → endsAt slots next)
    let set : SlotNo → GroupSlot → Vector GroupSlot 4 := fun i g => s.grp.slots.set i g
    (o.stopping = true → ∃ m u, run = .next u ∧ AnswerTaken s m t (.done raced) ∧ m.mem = s.mem ∧ StopPointMet m u) ∧
    (o.stopping = false → valid →
      (h.kind = 1 ∨ h.kind = 2 →
        (s.findSlot k = none → h.back = 0 →
          (∀ i, (s.slot i).state = .free → (∀ j, j < i → (s.slot j).state ≠ .free) →
            rebuilds (set i ⟨.opened, k, p, p, 1, 0, 0, none, false, none, none, none⟩)) ∧
          ((∀ i, (s.slot i).state ≠ .free) → corrupt s p)) ∧
        (s.findSlot k = none → h.back ≠ 0 →
          (p < o.tail + h.back → rebuilds s.grp.slots) ∧ (o.tail + h.back ≤ p → corrupt s p)) ∧
        (∀ i, s.findSlot k = some i →
          (p = (s.slot i).newest + h.back →
            rebuilds (set i { s.slot i with newest := p, records := (s.slot i).records + 1 })) ∧
          (p ≠ (s.slot i).newest + h.back → corrupt s p))) ∧
      (h.kind = 3 ∨ h.kind = 4 →
        (s.findSlot k = none →
          (p < o.tail + h.back → rebuilds s.grp.slots) ∧ (o.tail + h.back ≤ p → corrupt s p)) ∧
        (∀ i, s.findSlot k = some i →
          let closes : Prop := p = (s.slot i).first + h.back ∧ h.records = min (s.slot i).records 65535
          (closes → rebuilds (set i GroupSlot.free)) ∧ (¬ closes → corrupt s p))) ∧
      (h.kind = 5 → rebuilds s.grp.slots)) ∧
    (o.stopping = false → ¬ valid → endsAt s.grp.slots p) ∧
    ∀ x, ∃ m, exec (.scanReadAnswered t (.error x)) s = .next (m.backInGated .memError p) ∧
      AnswerTaken s m t (.error x) ∧ m.mem = s.mem

/-- Recovery ends (R142): with its rollbacks over and every record durable, the final anchor is handed over, CLEAN with
the head as its tail and a generation one above the largest read. DONE, a new generation begins, RECOVERY_DONE is posted
and the bridge is RUNNING, or with PFW asserted DRAINING as `DrainEntered` says (R123; its order, log 47); failing, it is
GATED with RECOVERY_FAILED, requests of the rollback engine without a requester (log 27). RECOVERY_DONE is the newest
notice of its step, after a LOG_LOW that the anchor's adoption posts (R24; R162 lets either join first: the model's
choice, log 41). That its rollbacks are over only when every slot is FREE (log 19) and no closing record is due (log 13),
and that the row changes nothing before (log 4), is the model's reading of R142. -/
def Obligations.RecoveryEnds : Prop :=
  ∀ (s : State) (o : StartOp), s.power = true → s.start = some o →
    let finished : Prop := s.bridge = .recovering ∧ o.phase = .rollback ∧ o.stopping = false ∧
      (∀ i, (s.slot i).state = .free) ∧ s.grp.queue = [] ∧ s.grp.walk = none ∧ s.log.window = [] ∧ s.log.due = []
    let a : Anchor := ⟨(s.log.newest.map (·.serial)).getD 0 + 1, if 2 ^ 32 ≤ o.topGen + 1 then 1 else o.topGen + 1, .clean,
      s.geo.exponent, s.log.head⟩
    (¬ finished → exec .recoveryFinalAnchor s = .next s) ∧
    (finished → exec .recoveryFinalAnchor s = .next { s with
      start := some { o with phase := .finalAnchor }
      log := { s.log with anchorOp := .writing s.nextCopy a .recovery }
      mport := { s.mport with logQ := s.mport.logQ ++
        [⟨.anchorWrite, true, s.geo.anchorAddr s.nextCopy, 64, spanMask 96 0 64, a.bytes⟩] } }) ∧
    (∀ t c b raced landed, s.mem.wf = true → s.awaits t .anchorWrite → s.log.anchorOp = .writing c b .recovery →
      (∃ m n u, exec (.recoveryDone t (.done raced)) s = .next u ∧ AnswerTaken s m t (.done raced) ∧
        AnchorAdopted m n c b ∧
        let ended : State := { n with
          bridge := .running
          start := none
          log := { n.log with volatileTail := b.tail, gen := b.gen }
          notes := (n.post .recoveryDone Key.zero .none o.rolledBack o.scanned).notes }
        (s.pfwAsserted = false → u = ended) ∧ (s.pfwAsserted = true → DrainEntered ended u)) ∧
      (∃ m, AnswerTaken s m t (.error landed) ∧ exec (.recoveryDone t (.error landed)) s =
        .next ((m.post .anchorError Key.zero (.copy c) 0 0).backInGated .memError 0)))

/-- STOP (R144): BUSY unless the bridge is RUNNING, every slot is FREE, and the hold list and in-flight table are empty;
taken, the bridge is GATED, a follow-up and a waiting retry are dropped, a front request the admission unit paused with is
decided again in GATED (R62), and the stop anchor is handed over, CLEAN with the head as its tail, its contents fixed then
(log 15; an answered entry whose response is unsent counts as in flight, log 36), after an anchor write still outstanding,
which it is from its hand-over on (the model's choice, log 49). That write's answer: DONE, it is the newest durable
anchor; failed, ANCHOR_ERROR is posted and the failure counts (the model's reading, log 16). The stop anchor's answer is
STOP's. -/
def Obligations.StopTaken : Prop :=
  ∀ (s : State), s.power = true →
    let taken : Prop := s.bridge = .running ∧ (∀ i, (s.slot i).state = .free) ∧ s.host.holds = [] ∧ s.host.inflight = []
    let stopAnchor : Anchor := ⟨(s.log.newest.map (·.serial)).getD 0 + 1, s.log.gen, .clean, s.geo.exponent, s.log.head⟩
    let write : Copy → Anchor → MReq := fun c a => ⟨.anchorWrite, true, s.geo.anchorAddr c, 64, spanMask 96 0 64, a.bytes⟩
    let gated : State := { s with
      bridge := .gated
      log := { s.log with
        followUp := false
        anchorOp := match s.log.anchorOp with | .retryWait _ _ _ => .idle | op => op }
      link := { s.link with state := .executing 0x0A [], buffer := .none } }
    (s.link.state = .idle → ¬ taken → exec .stop s = .next (s.answerLink .busy [])) ∧
    (s.link.state = .idle → taken → ∃ r, PausedRedecided gated r ∧
      ((∀ c a u, s.log.anchorOp ≠ .writing c a u) → exec .stop s = .next { r with
        log := { gated.log with anchorOp := .writing s.nextCopy stopAnchor .stop }
        mport := { r.mport with logQ := s.mport.logQ ++ [write s.nextCopy stopAnchor] } }) ∧
      (∀ c a u, s.log.anchorOp = .writing c a u → exec .stop s =
        .next { r with log := { gated.log with anchorOp := .writing c a .beforeStop } })) ∧
    (∀ t c a raced landed, s.mem.wf = true → s.awaits t .anchorWrite →
      (s.log.anchorOp = .writing c a .stop →
        (∃ m n, AnswerTaken s m t (.done raced) ∧ AnchorAdopted m n c a ∧
          exec (.stopAnchorAnswered t (.done raced)) s = .next (n.answerLink .ok [])) ∧
        (∃ m, AnswerTaken s m t (.error landed) ∧ exec (.stopAnchorAnswered t (.error landed)) s = .next { m with
          log := { s.log with anchorOp := .idle }
          notes := (m.post .anchorError Key.zero (.copy c) 0 0).notes
          link := { s.link with state := .idle, buffer := .answer .memError [] } })) ∧
      (s.log.anchorOp = .writing c a .beforeStop →
        let after : Anchor := ⟨a.serial + 1, s.log.gen, .clean, s.geo.exponent, s.log.head⟩
        (∃ m n, AnswerTaken s m t (.done raced) ∧ AnchorAdopted m n c a ∧
          exec (.stopAnchorAnswered t (.done raced)) s = .next { n with
            log := { n.log with anchorOp := .writing c.other after .stop }
            mport := { n.mport with logQ := s.mport.logQ ++ [write c.other after] } }) ∧
        (∃ m, AnswerTaken s m t (.error landed) ∧ exec (.stopAnchorAnswered t (.error landed)) s = .next { m with
          log := { s.log with failures := s.log.failures + 1, anchorOp := .writing s.nextCopy stopAnchor .stop }
          mport := { m.mport with logQ := s.mport.logQ ++ [write s.nextCopy stopAnchor] }
          notes := (m.post .anchorError Key.zero (.copy c) 0 0).notes })))
end

