-- ==== Sys2Proof/Laws/Quiet.lean ====
section
/-! SUPPORT. Quiet operations: what the part's shared operations leave as it was. `Quiet s t` says once what holds of
every operation that neither admits, holds or allocates anything nor moves the bridge; the lemmas below it say so of each
operation. -/

namespace Sys2Proof.Machine

/-- `t` has the configuration, the memory, the bridge state and the tag states of `s`, and no queue or table of the part
has grown. -/
structure Quiet (s t : State) : Prop where
  power : t.power = s.power
  bridge : t.bridge = s.bridge
  regions : t.regions = s.regions
  pfwHigh : t.pfwHigh = s.pfwHigh
  now : t.now = s.now
  mem : t.mem = s.mem
  pending : t.pending = s.pending
  straps : t.link.straps = s.link.straps
  lock : t.link.lock = s.link.lock
  policy : t.link.policy = s.link.policy
  mask : t.notes.mask = s.notes.mask
  geometry : t.log.geometry = s.log.geometry
  tagState : ∀ i, (t.tag i).state = (s.tag i).state
  tagCls : ∀ i, (t.tag i).cls = (s.tag i).cls
  intake : t.host.intake.length ≤ s.host.intake.length
  holds : t.host.holds.length ≤ s.host.holds.length
  inflight : t.host.inflight.length ≤ s.host.inflight.length
  window : t.log.window.length ≤ s.log.window.length
  claims : t.grp.claims.length ≤ s.grp.claims.length
  notices : s.notes.queue.length ≤ Config.noticeDepth → t.notes.queue.length ≤ Config.noticeDepth

theorem Quiet.refl (s : State) : Quiet s s :=
  ⟨rfl, rfl, rfl, rfl, rfl, rfl, rfl, rfl, rfl, rfl, rfl, rfl, fun _ => rfl, fun _ => rfl, le_refl _, le_refl _, le_refl _,
    le_refl _, le_refl _, id⟩

theorem Quiet.trans {s t u : State} (h : Quiet s t) (k : Quiet t u) : Quiet s u where
  power := k.power.trans h.power
  bridge := k.bridge.trans h.bridge
  regions := k.regions.trans h.regions
  pfwHigh := k.pfwHigh.trans h.pfwHigh
  now := k.now.trans h.now
  mem := k.mem.trans h.mem
  pending := k.pending.trans h.pending
  straps := k.straps.trans h.straps
  lock := k.lock.trans h.lock
  policy := k.policy.trans h.policy
  mask := k.mask.trans h.mask
  geometry := k.geometry.trans h.geometry
  tagState i := (k.tagState i).trans (h.tagState i)
  tagCls i := (k.tagCls i).trans (h.tagCls i)
  intake := k.intake.trans h.intake
  holds := k.holds.trans h.holds
  inflight := k.inflight.trans h.inflight
  window := k.window.trans h.window
  claims := k.claims.trans h.claims
  notices := fun x => k.notices (h.notices x)

/-- A fold of quiet operations is quiet. -/
theorem Quiet.foldl {α : Type} (f : State → α → State) (hf : ∀ s a, Quiet s (f s a)) (l : List α) (s : State) :
    Quiet s (l.foldl f s) := by
  induction l generalizing s with
  | nil => exact Quiet.refl s
  | cons a l ih => exact (hf s a).trans (ih (f s a))

/-- A change of the host side that grows nothing is quiet. -/
theorem Quiet.host {s : State} {h : HostSide} (h1 : h.intake.length ≤ s.host.intake.length)
    (h2 : h.holds.length ≤ s.host.holds.length) (h3 : h.inflight.length ≤ s.host.inflight.length) :
    Quiet s { s with host := h } :=
  { Quiet.refl s with intake := h1, holds := h2, inflight := h3 }

/-- A change of the group side that grows no claim table is quiet. -/
theorem Quiet.grp {s : State} {g : GroupSide} (h : g.claims.length ≤ s.grp.claims.length) :
    Quiet s { s with grp := g } :=
  { Quiet.refl s with claims := h }

/-- A change of the log engine that keeps the geometry and grows no window is quiet. -/
theorem Quiet.log {s : State} {l : LogSide} (h1 : l.geometry = s.log.geometry)
    (h2 : l.window.length ≤ s.log.window.length) : Quiet s { s with log := l } :=
  { Quiet.refl s with geometry := h1, window := h2 }

/-- A change of the class queues or of what the tags serve is quiet. -/
theorem Quiet.mport {s : State} {p : MPort}
    (h1 : ∀ i : MTag, (p.tags[i]).state = (s.mport.tags[i]).state)
    (h2 : ∀ i : MTag, (p.tags[i]).cls = (s.mport.tags[i]).cls) : Quiet s { s with mport := p } :=
  { Quiet.refl s with tagState := h1, tagCls := h2 }

/-- A change of the link's state and buffer is quiet. -/
theorem Quiet.link {s : State} {st : LinkState} {b : Buffer} :
    Quiet s { s with link := { s.link with state := st, buffer := b } } :=
  { Quiet.refl s with }

/-- A change of the notice unit that keeps the mask and the queue's bound is quiet. -/
theorem Quiet.notes {s : State} {n : NoticeUnit} (h1 : n.mask = s.notes.mask)
    (h2 : s.notes.queue.length ≤ Config.noticeDepth → n.queue.length ≤ Config.noticeDepth) :
    Quiet s { s with notes := n } :=
  { Quiet.refl s with mask := h1, notices := h2 }

/-- Changes of START, of the resume-delay timer and of nothing else are quiet. -/
theorem Quiet.control {s : State} {o : Option StartOp} {r : Option Nat} :
    Quiet s { s with start := o, resumeAt := r } :=
  { Quiet.refl s with }

/-- A choice between quiet outcomes is quiet. -/
theorem Quiet.ite {s t u : State} {p : Prop} [Decidable p] (h : p → Quiet s t) (k : ¬ p → Quiet s u) :
    Quiet s (if p then t else u) := by
  by_cases hp : p
  · rw [if_pos hp]; exact h hp
  · rw [if_neg hp]; exact k hp

/-! ### Ops -/

theorem quiet_updSlot (s : State) (i : SlotNo) (f : GroupSlot → GroupSlot) : Quiet s (s.updSlot i f) :=
  Quiet.grp (le_refl _)

theorem quiet_count (s : State) (f : Counters → Counters) : Quiet s (s.count f) := Quiet.notes rfl id

/-- A posted notice never takes the queue past 16 entries (R162). -/
theorem placeNotice_length (q : List Notice) (n : Notice) (h : q.length ≤ Config.noticeDepth) :
    (placeNotice q n).length ≤ Config.noticeDepth := by
  unfold placeNotice
  split
  · simpa using ‹_›
  · simp only [List.length_append, List.length_dropLast, List.length_cons, List.length_nil]
    unfold Config.noticeDepth at *
    omega

theorem quiet_post (s : State) (kind : NoticeKind) (key : Key) (d : Detail) (count pos : Nat) :
    Quiet s (s.post kind key d count pos) :=
  Quiet.notes rfl fun h => placeNotice_length _ _ h

theorem quiet_respond (s : State) (source : Source) (tag : ReqTag) (a : Answer) (b : Bool) :
    Quiet s (s.respond source tag a b) := Quiet.host (le_refl _) (le_refl _) (le_refl _)

theorem quiet_refuse (s : State) (r : Request) (why : Reason) : Quiet s (s.refuse r why) := quiet_respond _ _ _ _ _

theorem quiet_setStage (s : State) (source : Source) (tag : ReqTag) (st : Stage) :
    Quiet s (s.setStage source tag st) := Quiet.host (le_refl _) (le_refl _) (by simp)

theorem quiet_answerAdmitted (s : State) (source : Source) (tag : ReqTag) (a : Answer) :
    Quiet s (s.answerAdmitted source tag a) := (quiet_setStage _ _ _ _).trans (quiet_respond _ _ _ _ _)

/-- Replacing a class queue leaves the tags. -/
@[simp] theorem MPort.setQueue_tags (p : MPort) (c : Cls) (q : List MReq) : (p.setQueue c q).tags = p.tags := by
  cases c <;> rfl

/-- Replacing a class queue leaves the last-granted class. -/
@[simp] theorem MPort.setQueue_last (p : MPort) (c : Cls) (q : List MReq) : (p.setQueue c q).last = p.last := by
  cases c <;> rfl

theorem quiet_handOver (s : State) (q : MReq) : Quiet s (s.handOver q) :=
  Quiet.mport (fun i => by simp) (fun i => by simp)

theorem quiet_withdraw (s : State) (p : Ref → Bool) : Quiet s (s.withdraw p) :=
  Quiet.mport (fun _ => rfl) (fun _ => rfl)

theorem quiet_disown (s : State) (p : Ref → Bool) : Quiet s (s.disown p) :=
  Quiet.mport (fun i => by simp only [Fin.getElem_fin, Vector.getElem_map, TagEntry.disown]; split <;> rfl)
    (fun i => by simp only [Fin.getElem_fin, Vector.getElem_map, TagEntry.disown]; split <;> rfl)

theorem quiet_answerLink (s : State) (st : Status) (data : List Byte) : Quiet s (s.answerLink st data) := Quiet.link

theorem quiet_recomputeTail (s : State) : Quiet s s.recomputeTail := Quiet.log rfl (le_refl _)

/-! ### Holds -/

/-- Replacing the hold list by one no longer is quiet. -/
theorem quiet_setHolds (s : State) (hs : List Hold) (h : hs.length ≤ s.host.holds.length) : Quiet s (s.setHolds hs) :=
  Quiet.host (le_refl _) h (le_refl _)

theorem quiet_wake (s : State) (p : Hold → Bool) : Quiet s (s.wake p) := quiet_setHolds _ _ (by simp)

theorem quiet_wakeOrder (s : State) (source : Source) (tag : ReqTag) : Quiet s (s.wakeOrder source tag) := quiet_wake _ _

theorem quiet_wakeRoom (s : State) (r : Room) : Quiet s (s.wakeRoom r) :=
  Quiet.host (le_refl _) (by simp) (le_refl _)

theorem quiet_wakeReads (s : State) (lines : List Nat) : Quiet s (s.wakeReads lines) := quiet_wake _ _

theorem quiet_wakeClose (s : State) (lines : List Nat) (b : Bool) : Quiet s (s.wakeClose lines b) := quiet_wake _ _

theorem quiet_refuseHeld (s : State) (p : Hold → Bool) (why : Reason) : Quiet s (s.refuseHeld p why) :=
  (quiet_setHolds _ _ (List.length_filter_le _ _)).trans
    (Quiet.foldl _ (fun _ _ => (quiet_refuse _ _ _).trans (quiet_wakeOrder _ _ _)) _ _)

theorem quiet_refuseHeldWrites (s : State) (k : Key) (why : Reason) : Quiet s (s.refuseHeldWrites k why) :=
  quiet_refuseHeld _ _ _

theorem quiet_emptyHolds (s : State) (why : Reason) : Quiet s (s.emptyHolds why) :=
  (quiet_setHolds _ _ (Nat.zero_le _)).trans (Quiet.foldl _ (fun _ _ => quiet_refuse _ _ _) _ _)

/-! ### The log engine -/

theorem quiet_lowCompare (s : State) : Quiet s s.lowCompare :=
  Quiet.ite
    (fun _ => Quiet.ite (fun _ => (Quiet.log (l := { s.log with lowArmed := false }) rfl (le_refl _)).trans
      (quiet_post _ _ _ _ _ _)) fun _ => Quiet.refl s)
    fun _ => Quiet.log rfl (le_refl _)

theorem quiet_writeRecord (s : State) (h : Header) (retry : Bool) (bs : List Byte) :
    Quiet s (s.writeRecord h retry bs) := quiet_handOver _ _

theorem quiet_writeAnchor (s : State) (c : Copy) (a : Anchor) (u : AnchorUse) : Quiet s (s.writeAnchor c a u) :=
  (Quiet.log (l := { s.log with anchorOp := .writing c a u }) rfl (le_refl _)).trans (quiet_handOver _ _)

theorem quiet_launchAnchor (s : State) (st : AnchorState) (tail : Nat) (u : AnchorUse) :
    Quiet s (s.launchAnchor st tail u) := quiet_writeAnchor _ _ _ _

theorem quiet_adoptAnchor (s : State) (c : Copy) (a : Anchor) : Quiet s (s.adoptAnchor c a) := by
  have h : Quiet s { s with log := { s.log with
      newest := some ⟨c, a.serial, a.state, a.tail⟩, persistedTail := a.tail, failures := 0, anchorOp := .idle } } :=
    Quiet.log rfl (le_refl _)
  exact Quiet.ite (fun _ => h.trans ((quiet_wake _ _).trans (quiet_lowCompare _))) fun _ => h

theorem quiet_closeTrigger (s : State) : Quiet s s.closeTrigger :=
  Quiet.ite (fun _ => Quiet.ite (fun _ => quiet_launchAnchor _ _ _ _) fun _ => Quiet.log rfl (le_refl _))
    fun _ => Quiet.refl s

theorem quiet_barrierTrigger (s : State) : Quiet s s.barrierTrigger :=
  Quiet.ite (fun _ => quiet_launchAnchor _ _ _ _) fun _ => Quiet.refl s

theorem quiet_followUpAnchor (s : State) : Quiet s s.followUpAnchor :=
  Quiet.ite (fun _ => (Quiet.log (l := { s.log with followUp := false }) rfl (le_refl _)).trans (quiet_closeTrigger _))
    fun _ => Quiet.refl s

theorem quiet_launchDrainAnchor (s : State) : Quiet s s.launchDrainAnchor := quiet_launchAnchor _ _ _ _

theorem quiet_postAnchorError (s : State) (c : Copy) : Quiet s (s.postAnchorError c) := quiet_post _ _ _ _ _ _

/-! ### Groups -/

/-- Promotion keeps the number of in-flight entries. -/
theorem promoteList_length (s : State) (before es : List Inflight) : (s.promoteList before es).1.length = es.length := by
  induction es generalizing before with
  | nil => rfl
  | cons e es ih =>
    unfold State.promoteList
    cases s.dataWrite before e <;> simp [ih]

theorem quiet_promote (s : State) : Quiet s s.promote :=
  (Quiet.host (h := { s.host with inflight := (s.promoteList [] s.host.inflight).1 }) (le_refl _) (le_refl _)
    (le_of_eq (promoteList_length s [] s.host.inflight))).trans (Quiet.foldl State.handOver quiet_handOver _ _)

theorem quiet_joinQueue (s : State) (i : SlotNo) : Quiet s (s.joinQueue i) := Quiet.grp (le_refl _)

theorem quiet_requestClosing (s : State) (i : SlotNo) (what : Closing) : Quiet s (s.requestClosing i what) :=
  Quiet.log rfl (le_refl _)

theorem quiet_closingStep (s : State) (i : SlotNo) : Quiet s (s.closingStep i) := by
  unfold State.closingStep
  refine Quiet.ite (fun _ => Quiet.refl s) fun _ => ?_
  cases (s.slot i).state
  case committing =>
    exact Quiet.ite
      (fun _ => ((quiet_updSlot _ _ _).trans (quiet_refuseHeldWrites _ _ _)).trans (quiet_joinQueue _ _))
      fun _ => quiet_requestClosing _ _ _
  case rollbackWait => exact quiet_joinQueue _ _
  all_goals exact Quiet.refl s

theorem quiet_enterClosing (s : State) (i : SlotNo) (st : SlotState) (c : Cause) (w : Option Waiter) :
    Quiet s (s.enterClosing i st c w) :=
  ((quiet_updSlot _ _ _).trans (quiet_refuseHeldWrites _ _ _)).trans (quiet_closingStep _ _)

theorem quiet_answerWrite (s : State) (source : Source) (tag : ReqTag) (i : SlotNo) (a : Answer) :
    Quiet s (s.answerWrite source tag i a) :=
  ((quiet_answerAdmitted _ _ _ _).trans (quiet_updSlot _ _ _)).trans (quiet_closingStep _ _)

theorem quiet_answerWaiter (s : State) (i : SlotNo) (a : Waiter → Answer) : Quiet s (s.answerWaiter i a) := by
  unfold State.answerWaiter
  cases (s.slot i).waiter
  · exact Quiet.refl s
  · exact (quiet_updSlot _ _ _).trans (quiet_answerAdmitted _ _ _ _)

theorem quiet_releaseGroup (s : State) (i : SlotNo) : Quiet s (s.releaseGroup i) :=
  ((Quiet.grp (g := { s.grp with
      claims := s.grp.claims.filter fun c => decide (c.owner ≠ i), slots := s.grp.slots.set i GroupSlot.free })
    (List.length_filter_le _ _)).trans (quiet_wakeClose _ _ _)).trans (quiet_recomputeTail _)

theorem quiet_postClose (s : State) (kind : NoticeKind) (g : GroupSlot) (d : Detail) (pos : Nat) :
    Quiet s (s.postClose kind g d pos) := quiet_post _ _ _ _ _ _

theorem quiet_countRecovered (s : State) : Quiet s s.countRecovered := { Quiet.refl s with }

theorem quiet_completeClosing (s : State) (i : SlotNo) : Quiet s (s.completeClosing i) := by
  have close : ∀ (a : Waiter → Answer) (f : Counters → Counters) (k : NoticeKind) (g : GroupSlot) (d : Detail) (p : Nat),
      Quiet s (((((s.answerWaiter i a).releaseGroup i).count f).postClose k g d p).closeTrigger) := fun a f k g d p =>
    ((((quiet_answerWaiter _ _ _).trans (quiet_releaseGroup _ _)).trans (quiet_count _ _)).trans
      (quiet_postClose _ _ _ _ _)).trans (quiet_closeTrigger _)
  unfold State.completeClosing
  dsimp only
  cases (s.slot i).state
  case committing => exact close _ _ _ _ _ _
  case rollingBack => exact Quiet.ite (fun _ => (close _ _ _ _ _ _).trans (quiet_countRecovered _)) fun _ => close _ _ _ _ _ _
  case broken =>
    exact (((quiet_releaseGroup _ _).trans (quiet_postClose _ _ _ _ _)).trans (quiet_closeTrigger _)).trans
      (quiet_answerLink _ _ _)
  all_goals exact Quiet.refl s

theorem quiet_completeClosings (s : State) : Quiet s s.completeClosings :=
  Quiet.ite (fun _ => Quiet.refl s) fun _ => Quiet.foldl _ quiet_completeClosing _ _

/-! ### Admission, apart from what admits -/

theorem quiet_takeFront (s : State) : Quiet s s.takeFront := Quiet.host (by simp) (le_refl _) (le_refl _)

theorem quiet_pauseFor (s : State) (r : Room) : Quiet s (s.pauseFor r) :=
  Quiet.host (le_refl _) (le_refl _) (le_refl _)

theorem quiet_joinGroup (s : State) (k : Key) (p : Plan) : Quiet s (s.joinGroup k p) := quiet_updSlot _ _ _

/-! ### The bridge, apart from what moves it -/

theorem quiet_startResume (s : State) : Quiet s s.startResume := { Quiet.refl s with }

theorem quiet_resumeIfAuto (s : State) : Quiet s s.resumeIfAuto :=
  Quiet.ite (fun _ => quiet_startResume _) fun _ => Quiet.refl s

theorem quiet_answerFaulted (s : State) (e : Inflight) : Quiet s (s.answerFaulted e) := by
  unfold State.answerFaulted
  cases e.work
  case journaled => exact Quiet.ite (fun _ => quiet_answerWrite _ _ _ _ _) fun _ => Quiet.refl s
  all_goals exact Quiet.refl s

theorem quiet_clearIdle (s : State) : Quiet s s.clearIdle := Quiet.grp (le_refl _)

theorem quiet_dropRetry (s : State) : Quiet s s.dropRetry := Quiet.log rfl (le_refl _)

theorem quiet_failRelease (s : State) : Quiet s s.failRelease := by
  unfold State.failRelease
  cases s.link.state
  · exact Quiet.refl s
  · exact Quiet.ite (fun _ => quiet_answerLink _ _ _) fun _ => Quiet.refl s

theorem quiet_forgetRollback (s : State) : Quiet s s.forgetRollback :=
  quiet_disown _ _

theorem quiet_failFresh (s : State) : Quiet s s.failFresh := by
  have h : Quiet s.forgetRollback { s.forgetRollback with
      start := none, log := { s.forgetRollback.log with anchorOp := .idle } } := { Quiet.refl s.forgetRollback with }
  exact ((quiet_forgetRollback s).trans h).trans (quiet_answerLink _ _ _)

/-! ### The rollback engine -/

theorem quiet_setWalk (s : State) (w : Option Walk) : Quiet s (s.setWalk w) := Quiet.grp (le_refl _)

theorem quiet_handWalkRead (s : State) (pos : Nat) : Quiet s (s.handWalkRead pos) := quiet_handOver _ _

theorem quiet_handRestore (s : State) (h : RawHeader) (bs : List Byte) : Quiet s (s.handRestore h bs) :=
  quiet_handOver _ _

theorem quiet_takeSlot (s : State) : Quiet s s.takeSlot := by
  unfold State.takeSlot
  refine Quiet.ite (fun _ => ?_) fun _ => Quiet.refl s
  split
  · exact Quiet.refl s
  · rename_i i rest _
    have h : Quiet s ({ s with grp := { s.grp with
        queue := rest, walk := some ⟨i, (s.slot i).newest, .reading, .none⟩ } } : State) := Quiet.grp (le_refl _)
    exact (h.trans (quiet_updSlot _ i _)).trans (quiet_handWalkRead _ _)

theorem quiet_walkComplete (s : State) (i : SlotNo) : Quiet s (s.walkComplete i) :=
  (quiet_setWalk _ _).trans (quiet_requestClosing _ _ _)

theorem quiet_walkTo (s : State) (w : Walk) (pos : Nat) : Quiet s (s.walkTo w pos) :=
  Quiet.ite (fun _ => quiet_setWalk _ _) fun _ => (quiet_setWalk _ _).trans (quiet_handWalkRead _ _)

theorem quiet_endWalk (s : State) : Quiet s s.endWalk := Quiet.ite (fun _ => Quiet.refl s) fun _ => quiet_setWalk _ _

/-! ### START -/

theorem quiet_readAnchor (s : State) (c : Copy) : Quiet s (s.readAnchor c) := quiet_handOver _ _

theorem quiet_readScan (s : State) (p : Nat) : Quiet s (s.readScan p) := quiet_handOver _ _

theorem quiet_freshBegin (s : State) (o : StartOp) : Quiet s (s.freshBegin o) :=
  (Quiet.control (r := s.resumeAt)).trans (quiet_writeAnchor _ _ _ _)

theorem quiet_freshSecond (s : State) (c : Copy) (a : Anchor) : Quiet s (s.freshSecond c a) := quiet_writeAnchor _ _ _ _

theorem quiet_freshFailed (s : State) (c : Copy) : Quiet s (s.freshFailed c) :=
  (quiet_postAnchorError _ _).trans (quiet_failFresh _)

theorem quiet_recoverSlot (s : State) (i : SlotNo) : Quiet s (s.recoverSlot i) :=
  (quiet_updSlot _ _ _).trans (quiet_joinQueue _ _)

theorem quiet_rebuildBefore (s : State) (o : StartOp) (k : Key) (p back : Nat) (t : State)
    (ht : s.rebuildBefore o k p back = some t) : Quiet s t := by
  unfold State.rebuildBefore at ht
  repeat' split at ht
  all_goals first
    | cases ht; exact quiet_updSlot _ _ _
    | cases ht; exact Quiet.refl _
    | cases ht

theorem quiet_rebuildClose (s : State) (o : StartOp) (k : Key) (p back records : Nat) (t : State)
    (ht : s.rebuildClose o k p back records = some t) : Quiet s t := by
  unfold State.rebuildClose at ht
  repeat' split at ht
  all_goals first
    | cases ht; exact quiet_updSlot _ _ _
    | cases ht; exact Quiet.refl _
    | cases ht

/-- The rebuild changes a group slot or nothing. -/
theorem quiet_rebuild (s : State) (o : StartOp) (p : Nat) (h : RawHeader) (t : State) (ht : s.rebuild o p h = some t) :
    Quiet s t := by
  unfold State.rebuild at ht
  repeat' split at ht
  · exact quiet_rebuildBefore _ _ _ _ _ _ ht
  · cases ht; exact Quiet.refl _
  · exact quiet_rebuildClose _ _ _ _ _ _ _ ht

theorem quiet_finalAnchor (s : State) (o : StartOp) : Quiet s (s.finalAnchor o) :=
  (Quiet.control (r := s.resumeAt)).trans (quiet_writeAnchor _ _ _ _)

/-! ### Answers -/

theorem quiet_countAnswer (s : State) (a : MemAnswer) : Quiet s (s.countAnswer a) :=
  Quiet.ite (fun _ => quiet_count _ _) fun _ => Quiet.refl s

theorem quiet_moveOwner (s : State) (pos : Nat) (st : Stage) : Quiet s (s.moveOwner pos st) := by
  unfold State.moveOwner
  cases s.ownerOf pos
  · exact Quiet.refl s
  · exact quiet_setStage _ _ _ _

theorem quiet_failOwner (s : State) (pos : Nat) : Quiet s (s.failOwner pos) := by
  unfold State.failOwner
  cases s.ownerOf pos
  · exact Quiet.refl s
  · rename_i e
    dsimp only
    cases e.work
    case journaled => exact quiet_answerWrite _ _ _ _ _
    all_goals exact Quiet.refl s

theorem quiet_biReadDone (s : State) (pos : Nat) (bs : List Byte) : Quiet s (s.biReadDone pos bs) := by
  unfold State.biReadDone
  refine Quiet.ite (fun _ => Quiet.refl s) fun _ => ?_
  cases s.windowAt pos
  · exact Quiet.refl s
  · exact (quiet_moveOwner _ _ _).trans (quiet_writeRecord _ _ _ _)

theorem quiet_voidRecord (s : State) (h : Header) (retry : Bool) (d : Detail) : Quiet s (s.voidRecord h retry d) :=
  (((((Quiet.log (l := { s.log with window := s.log.window.map fun r => if r.pos = h.pos then r.voided else r }) rfl
    (by simp)).trans (quiet_writeRecord _ _ _ _)).trans (quiet_post _ _ _ _ _ _)).trans (quiet_failOwner _ _))).trans
    (quiet_promote _)

theorem quiet_biReadFailed (s : State) (pos : Nat) : Quiet s (s.biReadFailed pos) := by
  unfold State.biReadFailed
  refine Quiet.ite (fun _ => Quiet.refl s) fun _ => ?_
  cases s.windowAt pos
  · exact Quiet.refl s
  · exact quiet_voidRecord _ _ _ _

theorem quiet_widen (s : State) (h : Header) : Quiet s (s.widen h) := Quiet.grp (by simp)

theorem quiet_makeDurable (s : State) (h : Header) : Quiet s (s.makeDurable h) := by
  have q : Quiet s ({ s with log := { s.log with window := s.log.window.filter fun r => decide (r.pos ≠ h.pos) } } :
      State) := Quiet.log rfl (List.length_filter_le _ _)
  exact Quiet.ite (fun _ => (((q.trans (quiet_count _ _)).trans (quiet_count _ _)).trans (quiet_widen _ _)).trans
    (quiet_moveOwner _ _ _)) fun _ => q.trans (quiet_count _ _)

theorem quiet_wakeWindow (s : State) : Quiet s s.wakeWindow :=
  Quiet.ite (fun _ => quiet_wakeRoom _ _) fun _ => Quiet.refl s

theorem quiet_recordFailed (s : State) (pos : Nat) : Quiet s (s.recordFailed pos) := by
  unfold State.recordFailed
  refine Quiet.ite (fun _ => Quiet.refl s) fun _ => ?_
  cases s.windowAt pos
  · exact Quiet.refl s
  · exact Quiet.ite (fun _ => quiet_voidRecord _ _ _ _) fun _ => quiet_writeRecord _ _ _ _

theorem quiet_dataDone (s : State) (source : Source) (tag : ReqTag) : Quiet s (s.dataDone source tag) := by
  unfold State.dataDone
  cases s.findInflight source tag
  · exact Quiet.refl s
  · rename_i e
    dsimp only
    cases e.work
    case journaled => exact quiet_answerWrite _ _ _ _ _
    all_goals exact Quiet.refl s

theorem quiet_damage (s : State) (i : SlotNo) : Quiet s (s.damage i) :=
  Quiet.ite (fun _ => (quiet_updSlot _ _ _).trans (quiet_refuseHeldWrites _ _ _)) fun _ => quiet_updSlot _ _ _

theorem quiet_dataFailed (s : State) (source : Source) (tag : ReqTag) : Quiet s (s.dataFailed source tag) := by
  unfold State.dataFailed
  cases s.findInflight source tag
  · exact Quiet.refl s
  · rename_i e
    dsimp only
    cases e.work
    case journaled => exact (quiet_damage _ _).trans (quiet_answerWrite _ _ _ _ _)
    all_goals exact Quiet.refl s

theorem quiet_passAnswered (s : State) (source : Source) (tag : ReqTag) (a : Answer) :
    Quiet s (s.passAnswered source tag a) := (quiet_answerAdmitted _ _ _ _).trans (quiet_promote _)

theorem quiet_anchorDone (s : State) (c : Copy) (a : Anchor) : Quiet s (s.anchorDone c a) :=
  ((quiet_adoptAnchor _ _ _).trans (quiet_promote _)).trans (quiet_followUpAnchor _)

theorem quiet_anchorRetry (s : State) : Quiet s s.anchorRetry := by
  unfold State.anchorRetry
  cases s.log.anchorOp
  case retryWait => exact Quiet.ite (fun _ => quiet_writeAnchor _ _ _ _) fun _ => Quiet.refl s
  all_goals exact Quiet.refl s

theorem quiet_launchStopAnchor (s : State) : Quiet s s.launchStopAnchor := quiet_launchAnchor _ _ _ _

theorem quiet_beforeStopAnswered (s : State) (c : Copy) (a : Anchor) (b : Bool) :
    Quiet s (s.beforeStopAnswered c a b) :=
  Quiet.ite
    (fun _ => ((Quiet.log (l := { s.log with failures := s.log.failures + 1 }) rfl (le_refl _)).trans
      (quiet_postAnchorError _ _)).trans (quiet_launchStopAnchor _))
    fun _ => (quiet_adoptAnchor _ _ _).trans (quiet_launchStopAnchor _)

theorem quiet_stopAnswered (s : State) (c : Copy) (a : Anchor) (b : Bool) : Quiet s (s.stopAnswered c a b) :=
  Quiet.ite
    (fun _ => ((Quiet.log (l := { s.log with anchorOp := .idle }) rfl (le_refl _)).trans
      (quiet_postAnchorError _ _)).trans (quiet_answerLink _ _ _))
    fun _ => (quiet_adoptAnchor _ _ _).trans (quiet_answerLink _ _ _)

/-! ### Host commands -/

theorem quiet_sendResponse (s : State) (r : Response) : Quiet s (s.sendResponse r) := by
  have key : ∀ t, Quiet s t → Quiet s (match r.answer with
      | .refused _ => t.count fun c => { c with refusals := satAdd c.refusals 1 }
      | .done _ | .failed _ => t) := by
    intro t ht
    cases r.answer
    case refused => exact ht.trans (quiet_count _ _)
    all_goals exact ht
  have freed (p : Inflight → Bool) :
      Quiet s ({ s with host := { s.host with inflight := s.host.inflight.eraseP p } } : State) :=
    Quiet.host (le_refl _) (le_refl _) List.length_eraseP_le
  exact key _ (Quiet.ite (fun _ => (freed _).trans (quiet_wakeRoom _ _)) fun _ => Quiet.refl s)

theorem quiet_sendOldest (s : State) : Quiet s s.sendOldest := by
  unfold State.sendOldest
  split
  · exact Quiet.refl s
  · rename_i r rest _
    exact (Quiet.host (h := { s.host with responses := rest }) (le_refl _) (le_refl _) (le_refl _)).trans
      (quiet_sendResponse _ r)

theorem quiet_holdTimeout (s : State) (source : Source) (tag : ReqTag) : Quiet s (s.holdTimeout source tag) := by
  unfold State.holdTimeout
  split
  · exact (((quiet_setHolds _ _ (List.length_eraseP_le)).trans (quiet_refuse _ _ _)).trans (quiet_count _ _)).trans
      (quiet_wakeOrder _ _ _)
  · exact Quiet.refl s

theorem quiet_expireIdle (s : State) (i : SlotNo) : Quiet s (s.expireIdle i) := by
  unfold State.expireIdle
  refine Quiet.ite (fun _ => Quiet.ite (fun _ => quiet_enterClosing _ _ _ _ _) fun _ => ?_) fun _ => Quiet.refl s
  cases s.link.policy.idleAction <;> exact quiet_enterClosing _ _ _ _ _

end Sys2Proof.Machine
end

