-- ==== Sys2Proof/Laws/Grow.lean ====
section
/-! SUPPORT. Operations that let a table grow: admission, holds and allocation. `Grow s t n` is `Quiet` but for the
bridge's moves and the numbers of new holds, in-flight entries, records and claims that `n` allows. -/

namespace Sys2Proof.Machine

/-- How many new entries an operation may make. -/
structure Room4 where
  holds : Nat
  inflight : Nat
  window : Nat
  claims : Nat

/-- `t` has the configuration, the memory and the tag states of `s`; the tables grew by at most `n`. -/
structure Grow (n : Room4) (s t : State) : Prop where
  power : t.power = s.power
  regions : t.regions = s.regions
  pfwHigh : t.pfwHigh = s.pfwHigh
  now : t.now = s.now
  mem : t.mem = s.mem
  pending : t.pending = s.pending
  straps : t.link.straps = s.link.straps
  lock : t.link.lock = s.link.lock
  policy : t.link.policy = s.link.policy
  mask : t.notes.mask = s.notes.mask
  geometry : t.log.geometry = s.log.geometry
  tagState : ∀ i, (t.tag i).state = (s.tag i).state
  tagCls : ∀ i, (t.tag i).cls = (s.tag i).cls
  intake : t.host.intake.length ≤ s.host.intake.length
  holds : t.host.holds.length ≤ s.host.holds.length + n.holds
  inflight : t.host.inflight.length ≤ s.host.inflight.length + n.inflight
  window : t.log.window.length ≤ s.log.window.length + n.window
  claims : t.grp.claims.length ≤ s.grp.claims.length + n.claims
  notices : s.notes.queue.length ≤ Config.noticeDepth → t.notes.queue.length ≤ Config.noticeDepth

/-- Nothing new. -/
def Room4.none : Room4 := ⟨0, 0, 0, 0⟩

theorem Quiet.grow {s t : State} (h : Quiet s t) (n : Room4) : Grow n s t :=
  ⟨h.power, h.regions, h.pfwHigh, h.now, h.mem, h.pending, h.straps, h.lock, h.policy, h.mask, h.geometry, h.tagState,
    h.tagCls, h.intake, h.holds.trans (Nat.le_add_right _ _), h.inflight.trans (Nat.le_add_right _ _),
    h.window.trans (Nat.le_add_right _ _), h.claims.trans (Nat.le_add_right _ _), h.notices⟩

theorem Grow.trans {a b c : Room4} {s t u : State} (h : Grow a s t) (k : Grow b t u)
    (hc : a.holds + b.holds ≤ c.holds ∧ a.inflight + b.inflight ≤ c.inflight ∧ a.window + b.window ≤ c.window ∧
      a.claims + b.claims ≤ c.claims) : Grow c s u where
  power := k.power.trans h.power
  regions := k.regions.trans h.regions
  pfwHigh := k.pfwHigh.trans h.pfwHigh
  now := k.now.trans h.now
  mem := k.mem.trans h.mem
  pending := k.pending.trans h.pending
  straps := k.straps.trans h.straps
  lock := k.lock.trans h.lock
  policy := k.policy.trans h.policy
  mask := k.mask.trans h.mask
  geometry := k.geometry.trans h.geometry
  tagState i := (k.tagState i).trans (h.tagState i)
  tagCls i := (k.tagCls i).trans (h.tagCls i)
  intake := k.intake.trans h.intake
  holds := by have := k.holds; have := h.holds; omega
  inflight := by have := k.inflight; have := h.inflight; omega
  window := by have := k.window; have := h.window; omega
  claims := by have := k.claims; have := h.claims; omega
  notices := fun x => k.notices (h.notices x)

/-- A quiet operation before one that grows. -/
theorem Quiet.then {n : Room4} {s t u : State} (h : Quiet s t) (k : Grow n t u) : Grow n s u :=
  (h.grow .none).trans k (by simp [Room4.none])

/-- A quiet operation after one that grows. -/
theorem Grow.quiet {n : Room4} {s t u : State} (h : Grow n s t) (k : Quiet t u) : Grow n s u :=
  h.trans (k.grow .none) (by simp [Room4.none])

theorem Grow.refl (n : Room4) (s : State) : Grow n s s := (Quiet.refl s).grow n

/-- What is allowed may be allowed more. -/
theorem Grow.mono {a c : Room4} {s t : State} (h : Grow a s t)
    (hc : a.holds ≤ c.holds ∧ a.inflight ≤ c.inflight ∧ a.window ≤ c.window ∧ a.claims ≤ c.claims) : Grow c s t :=
  h.trans (Grow.refl .none t) (by simpa [Room4.none] using hc)

/-- A choice between outcomes that grow. -/
theorem Grow.ite {n : Room4} {s t u : State} {p : Prop} [Decidable p] (h : p → Grow n s t) (k : ¬ p → Grow n s u) :
    Grow n s (if p then t else u) := by
  by_cases hp : p
  · rw [if_pos hp]; exact h hp
  · rw [if_neg hp]; exact k hp

/-- A change of the bridge state, of START and of the timer alone. -/
theorem Grow.control {s : State} {b : Bridge} {o : Option StartOp} {r : Option Nat} :
    Grow .none s { s with bridge := b, start := o, resumeAt := r } :=
  { Grow.refl .none s with }

/-! ### Allocation -/

theorem grow_allocate (s : State) (h : Header) : Grow ⟨0, 0, 1, 0⟩ s (s.allocate h) := by
  have g : Grow ⟨0, 0, 1, 0⟩ s ({ s with log := { s.log with
      window := s.log.window ++ [h], head := s.log.head + h.slots } } : State) :=
    { Grow.refl ⟨0, 0, 1, 0⟩ s with window := by simp }
  exact g.quiet (quiet_lowCompare _)

theorem grow_allocatePad (s : State) (n : Nat) : Grow ⟨0, 0, if n = 0 then 0 else 1, 0⟩ s (s.allocatePad n) := by
  unfold State.allocatePad
  by_cases hn : n = 0
  · simp only [hn, if_true]; exact Grow.refl _ s
  · simp only [hn, if_false]
    exact (grow_allocate _ _).quiet (quiet_writeRecord _ _ _ _)

theorem grow_allocateBefore (s : State) (i : SlotNo) (line first count : Nat) :
    Grow ⟨0, 0, 1, 0⟩ s (s.allocateBefore i line first count) := by
  unfold State.allocateBefore
  exact (grow_allocate s _).quiet (quiet_updSlot _ i _)

theorem grow_allocateClosing (s : State) (c : DueClose) : Grow ⟨0, 0, 1, 0⟩ s (s.allocateClosing c) :=
  ((grow_allocate s (s.closingHeader c.slot c.what)).quiet (quiet_updSlot _ c.slot _)).quiet (quiet_writeRecord _ _ _ _)

theorem grow_allocateDue (s : State) : Grow ⟨0, 0, 1, 0⟩ s s.allocateDue := by
  unfold State.allocateDue
  split
  · exact Grow.refl _ s
  · rename_i c rest _
    refine Grow.ite (fun _ => ?_) fun _ => Grow.refl _ s
    exact (Quiet.log (l := { s.log with due := rest }) rfl (le_refl _)).then (grow_allocateClosing _ _)

/-! ### Admission -/

theorem grow_enterFlight (s : State) (e : Inflight) : Grow ⟨0, 1, 0, 0⟩ s (s.enterFlight e) :=
  { Grow.refl ⟨0, 1, 0, 0⟩ s with inflight := by simp [State.enterFlight] }

theorem grow_makeClaim (s : State) (line : Nat) (p : Plan) :
    Grow ⟨0, 0, 0, if p.claims then 1 else 0⟩ s (s.makeClaim line p) := by
  unfold State.makeClaim
  cases hp : p.claims
  · exact Grow.refl _ s
  · have g : Grow ⟨0, 0, 0, 1⟩ s ({ s with grp := { s.grp with
        claims := s.grp.claims ++ [(⟨line, p.slot, 0⟩ : Claim)] } } : State) :=
      { Grow.refl ⟨0, 0, 0, 1⟩ s with claims := by simp }
    simp only [if_true]
    exact g.quiet (quiet_updSlot _ p.slot _)

theorem grow_admitPassRead (s : State) (source : Source) (tag : ReqTag) (addr len : Nat) :
    Grow ⟨0, 1, 0, 0⟩ s (s.admitPassRead source tag addr len) := (grow_enterFlight _ _).quiet (quiet_handOver _ _)

theorem grow_admitPassWrite (s : State) (source : Source) (tag : ReqTag) (line : Nat) (mask : BitVec 64)
    (data : List Byte) : Grow ⟨0, 1, 0, 0⟩ s (s.admitPassWrite source tag line mask data) :=
  (grow_enterFlight _ _).quiet (quiet_handOver _ _)

/-- The places of the append window a plan's records take, with the head they are planned at. -/
def Plan.places (s : State) (p : Plan) : Nat :=
  match p.span with
  | none => 0
  | some (_, count) => s.placesFor count

/-- Joining a group and making a claim leave the head. -/
theorem joinGroup_makeClaim_log (s : State) (k : Key) (line : Nat) (p : Plan) :
    ((s.joinGroup k p).makeClaim line p).log = s.log := by
  unfold State.makeClaim; split <;> rfl

theorem grow_admitJournaled (s : State) (source : Source) (tag : ReqTag) (line : Nat) (mask : BitVec 64)
    (data : List Byte) (group : GroupNo) (p : Plan) :
    Grow ⟨0, 1, p.places s, if p.claims then 1 else 0⟩ s (s.admitJournaled source tag line mask data group p) := by
  have start : Grow ⟨0, 0, 0, if p.claims then 1 else 0⟩ s ((s.joinGroup ⟨source, group⟩ p).makeClaim line p) :=
    (quiet_joinGroup _ _ _).then (grow_makeClaim _ _ _)
  unfold State.admitJournaled Plan.places
  dsimp only
  cases hs : p.span with
  | none =>
    have fl := start.trans (grow_enterFlight ((s.joinGroup ⟨source, group⟩ p).makeClaim line p)
      ⟨source, tag, .journaled line mask data p.slot none, .frontierWait⟩)
      (c := ⟨0, 1, 0, if p.claims then 1 else 0⟩) (by simp)
    exact fl.quiet (quiet_promote _)
  | some fc =>
    obtain ⟨first, count⟩ := fc
    dsimp only
    have hl := joinGroup_makeClaim_log s ⟨source, group⟩ line p
    have places : (if padSlots ((s.joinGroup ⟨source, group⟩ p).makeClaim line p).geo
        ((s.joinGroup ⟨source, group⟩ p).makeClaim line p).log.head (beforeSlots count) = 0 then 0 else 1) + 1
        = s.placesFor count := by
      unfold State.placesFor State.geo
      rw [hl]
      split <;> rfl
    have alloc := (start.trans (grow_allocatePad _ (padSlots ((s.joinGroup ⟨source, group⟩ p).makeClaim line p).geo
        ((s.joinGroup ⟨source, group⟩ p).makeClaim line p).log.head (beforeSlots count)))
      (c := ⟨0, 0, _, if p.claims then 1 else 0⟩) ⟨by simp, by simp, le_of_eq (Nat.zero_add _), by simp⟩).trans
        (grow_allocateBefore _ p.slot line first count) (c := ⟨0, 0, s.placesFor count, if p.claims then 1 else 0⟩)
        ⟨by simp, by simp, le_of_eq places, by simp⟩
    have flight (e : Inflight) := (alloc.quiet (quiet_recomputeTail _)).trans (grow_enterFlight _ e)
      (c := ⟨0, 1, s.placesFor count, if p.claims then 1 else 0⟩) (by simp)
    exact ((flight _).quiet (quiet_handOver _ _)).quiet (quiet_barrierTrigger _)

/-- What a verdict lets the tables grow by. -/
def Verdict.growth (s : State) : Verdict → Room4
  | .refuse _ => .none
  | .hold _ => ⟨1, 0, 0, 0⟩
  | .pass => ⟨0, 1, 0, 0⟩
  | .journal p => ⟨0, 1, p.places s, if p.claims then 1 else 0⟩

theorem grow_admit (s : State) (r : Request) (v : Verdict) : Grow (v.growth s) s (s.admitRequest r v) := by
  unfold State.admitRequest
  split
  · exact grow_admitPassRead _ _ _ _ _
  · exact grow_admitPassWrite _ _ _ _ _ _
  · exact grow_admitJournaled _ _ _ _ _ _ _ _
  · exact Grow.refl _ s

theorem grow_admitMark (s : State) (source : Source) (tag : ReqTag) (group : GroupNo) (kind : MarkKind)
    (v : MarkVerdict) : Grow ⟨0, 1, 0, 0⟩ s (s.admitMark source tag group kind v) := by
  unfold State.admitMark
  cases v
  · exact Grow.refl _ s
  · exact (grow_enterFlight _ _).quiet (quiet_answerAdmitted _ _ _ _)
  · exact (grow_enterFlight _ _).quiet (quiet_updSlot _ _ _)
  · exact (grow_enterFlight _ _).quiet (quiet_enterClosing _ _ _ _ _)

theorem grow_placeHold (s : State) (r : Request) (why : HoldReason) : Grow ⟨1, 0, 0, 0⟩ s (s.placeHold r why) := by
  refine Grow.ite (fun _ => ?_) fun _ => (quiet_refuse _ _ _).grow _
  exact { Grow.refl ⟨1, 0, 0, 0⟩ s with holds := by simp [State.setHolds] }

/-- Taking the front request leaves the log, so a plan's places stand. -/
theorem Plan.places_takeFront (s : State) (p : Plan) : p.places s.takeFront = p.places s := rfl

theorem grow_settleFront (s : State) (r : Request) (v : Verdict) : Grow (v.growth s) s (s.settleFront r v) := by
  unfold State.settleFront
  split
  · exact (quiet_pauseFor _ _).grow _
  · cases v with
    | refuse why => exact ((quiet_takeFront _).trans (quiet_refuse _ _ _)).grow _
    | hold why => exact (quiet_takeFront _).then (grow_placeHold _ _ _)
    | pass => exact (quiet_takeFront s).then (grow_admit s.takeFront r .pass)
    | journal p => exact (quiet_takeFront s).then (grow_admit s.takeFront r (.journal p))

theorem grow_settleMark (s : State) (r : Request) (group : GroupNo) (kind : MarkKind) (v : MarkVerdict) :
    Grow ⟨0, 1, 0, 0⟩ s (s.settleMark r group kind v) := by
  unfold State.settleMark
  cases v with
  | refuse why => exact ((quiet_takeFront _).trans (quiet_refuse _ _ _)).grow _
  | broken => exact Grow.ite (fun _ => (quiet_takeFront _).then (grow_admitMark _ _ _ _ _ _)) fun _ =>
      (quiet_pauseFor _ _).grow _
  | join i => exact Grow.ite (fun _ => (quiet_takeFront _).then (grow_admitMark _ _ _ _ _ _)) fun _ =>
      (quiet_pauseFor _ _).grow _
  | close i st c => exact Grow.ite (fun _ => (quiet_takeFront _).then (grow_admitMark _ _ _ _ _ _)) fun _ =>
      (quiet_pauseFor _ _).grow _

/-! ### No table overflows -/

/-- A growth keeps the bounds when the tables have the room. -/
theorem Grow.fits {n : Room4} {s t : State} (g : Grow n s t) (h : s.fits)
    (h1 : s.host.holds.length + n.holds ≤ Config.holdDepth)
    (h2 : s.host.inflight.length + n.inflight ≤ Config.inflightDepth)
    (h3 : s.log.window.length + n.window ≤ Config.windowDepth)
    (h4 : s.grp.claims.length + n.claims ≤ Config.claimDepth) : t.fits :=
  ⟨g.intake.trans h.1, g.holds.trans h1, g.inflight.trans h2, g.window.trans h3, g.claims.trans h4,
    g.notices h.2.2.2.2.2⟩

/-- An operation after which nothing is new keeps the bounds. -/
theorem Grow.fits_none {s t : State} (g : Grow .none s t) (h : s.fits) : t.fits :=
  g.fits h h.2.1 h.2.2.1 h.2.2.2.1 h.2.2.2.2.1

theorem Quiet.fits {s t : State} (q : Quiet s t) (h : s.fits) : t.fits := (q.grow .none).fits_none h

/-- The claim a plan makes has a place in the claim table. -/
theorem claims_of_lineVerdict (s : State) (line : Nat) (mask : BitVec 64) (i : SlotNo) (opens : Bool) (p : Plan)
    (h : s.lineVerdict line mask i opens = .journal p) (hc : p.claims = true) :
    s.grp.claims.length < Config.claimDepth := by
  unfold State.lineVerdict at h
  have noHold : ∀ a b, s.holdOr a b ≠ .journal p := fun a b => by
    unfold State.holdOr; cases s.link.policy.holdPolicy <;> simp
  split at h
  · exact absurd h (noHold _ _)
  · exact absurd h (noHold _ _)
  · dsimp only at h
    split_ifs at h
    · cases h; cases hc
    · exact absurd h (noHold _ _)
  · rename_i hl
    unfold State.lineLookup at hl
    split at hl
    · split_ifs at hl
    · split_ifs at hl with hlt
      exact hlt

/-- The ORDER check journals nothing: what it lets through is the request's own verdict (R39). -/
theorem journal_of_orderedOr {older : List Hold} {source : Source} {line : Nat} {v : Verdict} {p : Plan}
    (h : orderedOr older source line v = .journal p) : v = .journal p := by
  unfold orderedOr at h
  split at h
  · cases h
  · exact h

theorem claims_of_writeVerdict (s : State) (older : List Hold) (source : Source) (line : Nat) (mask : BitVec 64)
    (group : GroupNo) (p : Plan) (h : s.writeVerdict older source line mask group = .journal p)
    (hc : p.claims = true) : s.grp.claims.length < Config.claimDepth := by
  have noHold : ∀ a b, s.holdOr a b ≠ .journal p := fun a b => by
    unfold State.holdOr; cases s.link.policy.holdPolicy <;> simp
  unfold State.writeVerdict at h
  split at h
  · cases h
  · cases h
  · cases h
  · cases h
  · split at h <;> cases h
  · split at h
    · cases h
    · cases h
    · exact absurd (journal_of_orderedOr h) (by simp)
    · split_ifs at h
      · unfold State.ungroupedVerdict at h
        split at h
        · cases h
        · have h' := journal_of_orderedOr h
          split_ifs at h'
          exact absurd h' (noHold _ _)
      · unfold State.groupVerdict at h
        split at h
        · cases h
        · cases h
        · exact claims_of_lineVerdict _ _ _ _ _ _ (journal_of_orderedOr h) hc
        · exact claims_of_lineVerdict _ _ _ _ _ _ (journal_of_orderedOr h) hc
        · exact absurd (journal_of_orderedOr h) (noHold _ _)

/-- A request is held in RUNNING alone. -/
theorem running_of_writeVerdict_hold (s : State) (older : List Hold) (source : Source) (line : Nat) (mask : BitVec 64)
    (group : GroupNo) (why : HoldReason) (h : s.writeVerdict older source line mask group = .hold why) :
    s.bridge = .running := by
  unfold State.writeVerdict at h
  split at h
  · cases h
  · cases h
  · cases h
  · cases h
  · split at h <;> cases h
  · assumption

theorem running_of_readVerdict_hold (s : State) (older : List Hold) (source : Source) (addr : Nat) (why : HoldReason)
    (h : s.readVerdict older source addr = .hold why) : s.bridge = .running := by
  unfold State.readVerdict at h
  split at h
  · cases h
  · cases h
  · split_ifs at h
  · split_ifs at h
  · split_ifs at h
  · assumption

/-- A verdict on a READ never journals. -/
theorem readVerdict_ne_journal (s : State) (older : List Hold) (source : Source) (addr : Nat) (p : Plan) :
    s.readVerdict older source addr ≠ .journal p := by
  unfold State.readVerdict
  intro h
  split at h
  · cases h
  · cases h
  · split_ifs at h
  · split_ifs at h
  · split_ifs at h
  · have h' := journal_of_orderedOr h
    split_ifs at h'

/-- What a verdict is good for: a claim it makes has a place, and it holds in RUNNING alone. -/
structure Verdict.Sound (s : State) (v : Verdict) : Prop where
  claims : ∀ p, v = .journal p → p.claims = true → s.grp.claims.length < Config.claimDepth
  running : ∀ why, v = .hold why → s.bridge = .running

theorem sound_writeVerdict (s : State) (older : List Hold) (source : Source) (line : Nat) (mask : BitVec 64)
    (group : GroupNo) : (s.writeVerdict older source line mask group).Sound s :=
  ⟨fun p h hc => claims_of_writeVerdict s older source line mask group p h hc,
    fun why h => running_of_writeVerdict_hold s older source line mask group why h⟩

theorem sound_readVerdict (s : State) (older : List Hold) (source : Source) (addr : Nat) :
    (s.readVerdict older source addr).Sound s :=
  ⟨fun _ h _ => absurd h (readVerdict_ne_journal _ _ _ _ _),
    fun why h => running_of_readVerdict_hold s older source addr why h⟩

theorem sound_refuse (s : State) (r : Reason) : (Verdict.refuse r).Sound s :=
  ⟨fun _ h => (by cases h), fun _ h => (by cases h)⟩

theorem sound_heldVerdict (s : State) (older : List Hold) (r : Request) : (s.heldVerdict older r).Sound s := by
  unfold State.heldVerdict
  split
  · exact sound_readVerdict _ _ _ _
  · exact sound_writeVerdict _ _ _ _ _ _
  · exact sound_refuse _ _

/-- With no shortage, the in-flight table and the append window have the room an admission takes. -/
theorem room_of_shortage (s : State) (v : Verdict) (h : s.shortage v = none) (hf : s.fits) :
    s.host.inflight.length + (v.growth s).inflight ≤ Config.inflightDepth ∧
      s.log.window.length + (v.growth s).window ≤ Config.windowDepth := by
  have hi := hf.2.2.1
  have hw := hf.2.2.2.1
  unfold State.shortage at h
  unfold Verdict.growth
  split at h
  · exact ⟨hi, hw⟩
  · exact ⟨hi, hw⟩
  · split_ifs at h with hr
    simp only [State.inflightRoom, decide_eq_true_eq] at hr
    exact ⟨hr, hw⟩
  · rename_i p
    split_ifs at h with hr
    simp only [State.inflightRoom, decide_eq_true_eq] at hr
    refine ⟨hr, ?_⟩
    dsimp only
    unfold Plan.places
    split at h
    · rename_i first count hs
      split_ifs at h with hp
      rw [hs]
      dsimp only
      unfold State.admissionPlaces at hp
      omega
    · rename_i hs
      rw [hs]
      exact hw

end Sys2Proof.Machine
end

