-- ==== Sys2Proof/Laws/Memory.lean ====
section
/-! SUPPORT. Laws of persistent memory: what a read after a store gives, and that every memory operation keeps the
canonical form. -/

namespace Sys2Proof.Machine

/-- The canonical form of a list with a first cell. -/
theorem Memory.wf_cons (c : Host.Cell) (m : Memory) :
    Memory.wf (c :: m) = true ↔ c.2 ≠ unlistedByte ∧ (∀ d ∈ m, c.1 < d.1) ∧ Memory.wf m = true := by
  obtain ⟨a, v⟩ := c
  simp only [Memory.wf, Bool.and_eq_true, decide_eq_true_eq, and_assoc]

/-- A cell of memory after a store is the stored one or was there before. -/
theorem Memory.mem_set (m : Memory) (x : Nat) (v : Byte) (c : Host.Cell) (h : c ∈ Memory.set m x v) :
    c = (x, v) ∨ c ∈ m := by
  induction m with
  | nil => simp only [Memory.set] at h; split at h <;> simp_all
  | cons d m ih =>
    obtain ⟨a, w⟩ := d
    simp only [Memory.set] at h
    split_ifs at h <;> simp only [List.mem_cons] at h ⊢ <;> tauto

/-- Storing a byte keeps the canonical form. -/
theorem Memory.set_wf (m : Memory) (x : Nat) (v : Byte) (h : Memory.wf m = true) :
    Memory.wf (Memory.set m x v) = true := by
  induction m with
  | nil =>
    simp only [Memory.set]
    split
    · rfl
    · simp_all [Memory.wf]
  | cons c m ih =>
    obtain ⟨a, w⟩ := c
    obtain ⟨hw, ha, hm⟩ := (Memory.wf_cons _ _).1 h
    simp only [Memory.set]
    split_ifs with h1 h2 h3 h4
    · exact h
    · refine (Memory.wf_cons _ _).2 ⟨h2, fun d hd => ?_, h⟩
      rcases List.mem_cons.1 hd with rfl | hd
      · exact h1
      · exact lt_trans h1 (ha d hd)
    · exact hm
    · exact (Memory.wf_cons _ _).2 ⟨h4, fun d hd => h3 ▸ ha d hd, hm⟩
    · refine (Memory.wf_cons _ _).2 ⟨hw, fun d hd => ?_, ih hm⟩
      rcases Memory.mem_set _ _ _ _ hd with rfl | hd
      · exact lt_of_le_of_ne (Nat.le_of_not_lt h1) (Ne.symm h3)
      · exact ha d hd

/-- An address below every listed one reads as an unlisted byte. -/
theorem Memory.get_of_lt (m : Memory) (x : Nat) (h : ∀ d ∈ m, x < d.1) : m.get x = unlistedByte := by
  induction m with
  | nil => rfl
  | cons c m ih =>
    obtain ⟨a, w⟩ := c
    have hx : x < a := h (a, w) (by simp)
    simp only [Memory.get, Nat.ne_of_lt hx, if_false]
    exact ih fun d hd => h d (List.mem_cons_of_mem _ hd)

/-- Reading after a store: the stored byte at its address, the old byte at every other. -/
theorem Memory.get_set (m : Memory) (x y : Nat) (v : Byte) (h : Memory.wf m = true) :
    (Memory.set m x v).get y = if y = x then v else m.get y := by
  induction m with
  | nil => simp only [Memory.set]; split <;> simp_all [Memory.get]
  | cons c m ih =>
    obtain ⟨a, w⟩ := c
    obtain ⟨hw, ha, hm⟩ := (Memory.wf_cons _ _).1 h
    rcases lt_trichotomy x a with hx | hx | hx
    · have low : ∀ d ∈ (a, w) :: m, x < d.1 := fun d hd => by
        rcases List.mem_cons.1 hd with rfl | hd
        exacts [hx, lt_trans hx (ha d hd)]
      simp only [Memory.set, hx, if_true]
      by_cases hv : v = unlistedByte
      · rw [if_pos hv]
        by_cases hy : y = x
        · rw [if_pos hy, hy, hv, Memory.get_of_lt _ _ low]
        · rw [if_neg hy]
      · rw [if_neg hv]
        by_cases hy : y = x <;> simp [Memory.get, hy]
    · subst hx
      simp only [Memory.set, lt_irrefl, if_false, if_true]
      by_cases hv : v = unlistedByte
      · rw [if_pos hv]
        by_cases hy : y = x
        · rw [if_pos hy, hy, hv, Memory.get_of_lt _ _ ha]
        · simp [Memory.get, hy]
      · rw [if_neg hv]
        by_cases hy : y = x <;> simp [Memory.get, hy]
    · have h1 : ¬ x < a := by omega
      have h2 : x ≠ a := by omega
      simp only [Memory.set, h1, h2, if_false, Memory.get]
      by_cases hy : y = a
      · have : y ≠ x := by omega
        simp [hy, Ne.symm h2]
      · simp only [hy, if_false]
        exact ih hm

/-- Storing a WRITE's bytes keeps the canonical form. -/
theorem Memory.store_wf (m : Memory) (addr : Nat) (mask landed : BitVec 96) (data : List Byte) (n : Nat)
    (h : Memory.wf m = true) : Memory.wf (Memory.store m addr mask landed data n) = true := by
  induction n with
  | zero => exact h
  | succ n ih => simp only [Memory.store]; split; exacts [Memory.set_wf _ _ _ ih, ih]

/-- Reading after a WRITE: the data byte at each place that the mask and `landed` both select, the old byte
elsewhere. -/
theorem Memory.get_store (m : Memory) (addr : Nat) (mask landed : BitVec 96) (data : List Byte) (n y : Nat)
    (h : Memory.wf m = true) :
    (Memory.store m addr mask landed data n).get y =
      if addr ≤ y ∧ y < addr + n ∧ mask.getLsbD (y - addr) = true ∧ landed.getLsbD (y - addr) = true
      then data.getD (y - addr) 0 else m.get y := by
  induction n with
  | zero =>
    have : ¬ (addr ≤ y ∧ y < addr + 0 ∧ mask.getLsbD (y - addr) = true ∧ landed.getLsbD (y - addr) = true) := by omega
    rw [if_neg this]; rfl
  | succ n ih =>
    have hw := Memory.store_wf m addr mask landed data n h
    simp only [Memory.store]
    by_cases hy : y = addr + n
    · subst hy
      have e : addr + n - addr = n := by omega
      rw [e] at *
      by_cases hb : mask.getLsbD n = true ∧ landed.getLsbD n = true
      · simp only [hb.1, hb.2, Bool.and_self, if_true]
        rw [Memory.get_set _ _ _ _ hw, if_pos rfl, if_pos ⟨by omega, by omega, trivial, trivial⟩]
      · have : (mask.getLsbD n && landed.getLsbD n) = false := by
          cases h1 : mask.getLsbD n <;> cases h2 : landed.getLsbD n <;> simp_all
        rw [this, if_neg (by simp), ih, if_neg (by omega), if_neg (fun c => hb c.2.2)]
    · have hc : (addr ≤ y ∧ y < addr + (n + 1) ∧ mask.getLsbD (y - addr) = true ∧ landed.getLsbD (y - addr) = true) ↔
          (addr ≤ y ∧ y < addr + n ∧ mask.getLsbD (y - addr) = true ∧ landed.getLsbD (y - addr) = true) := by
        constructor <;> rintro ⟨h1, h2, h3⟩ <;> exact ⟨h1, by omega, h3⟩
      simp only [hc]
      split
      · rw [Memory.get_set _ _ _ _ hw, if_neg hy, ih]
      · exact ih

/-- What an M-port request does to memory keeps the canonical form. -/
theorem MReq.storeTo_wf (q : MReq) (landed : BitVec 96) (m : Memory) (h : Memory.wf m = true) :
    Memory.wf (q.storeTo landed m) = true := by
  simp only [MReq.storeTo]; split; exacts [Memory.store_wf _ _ _ _ _ _ h, h]

/-- A READ changes no byte. -/
@[simp] theorem MReq.storeTo_read (q : MReq) (landed : BitVec 96) (m : Memory) (h : q.write = false) :
    q.storeTo landed m = m := by
  simp [MReq.storeTo, h]

/-- A request changes only bytes it selects (R110). -/
theorem MReq.get_storeTo (q : MReq) (landed : BitVec 96) (m : Memory) (y : Nat) (h : Memory.wf m = true) :
    (q.storeTo landed m).get y =
      if q.selects y = true ∧ landed.getLsbD (y - q.addr) = true then q.data.getD (y - q.addr) 0 else m.get y := by
  unfold MReq.storeTo MReq.selects
  by_cases hq : q.write = true
  · rw [if_pos hq, Memory.get_store _ _ _ _ _ _ _ h]
    simp only [hq, Bool.true_and, Bool.and_eq_true, decide_eq_true_eq, and_assoc]
  · simp [hq]

/-- The bytes that land at a power loss keep the canonical form. -/
theorem State.landIssued_wf (s : State) (landed : List (BitVec 96)) (h : Memory.wf s.mem = true) :
    Memory.wf (s.landIssued landed) = true := by
  simp only [State.landIssued]
  have : ∀ (ts : List MTag) (m : Memory), Memory.wf m = true → Memory.wf (ts.foldl (fun m t =>
      if (s.tag t).state = .free then m else (s.tag t).req.storeTo (landed.getD t.val 0) m) m) = true := by
    intro ts
    induction ts with
    | nil => exact fun m h => h
    | cons t ts ih =>
      intro m h
      refine ih _ ?_
      show Memory.wf (if (s.tag t).state = .free then m else _) = true
      split
      · exact h
      · exact MReq.storeTo_wf _ _ _ h
  exact this _ _ h

/-- The memory of the state after reset has the canonical form. -/
theorem State.reset_mem_wf : Memory.wf State.reset.mem = true := rfl

end Sys2Proof.Machine
end

