-- ==== Sys2Proof/Laws/State.lean ====
section
/-! SUPPORT. State: one lemma per field for each update of the state, so that no later proof unfolds a record update. -/

namespace Sys2Proof.Machine

@[simp] theorem State.updSlot_power (s : State) (i : SlotNo) (f : GroupSlot → GroupSlot) :
    (s.updSlot i f).power = s.power := rfl
@[simp] theorem State.updSlot_bridge (s : State) (i : SlotNo) (f : GroupSlot → GroupSlot) :
    (s.updSlot i f).bridge = s.bridge := rfl
@[simp] theorem State.updSlot_start (s : State) (i : SlotNo) (f : GroupSlot → GroupSlot) :
    (s.updSlot i f).start = s.start := rfl
@[simp] theorem State.updSlot_regions (s : State) (i : SlotNo) (f : GroupSlot → GroupSlot) :
    (s.updSlot i f).regions = s.regions := rfl
@[simp] theorem State.updSlot_host (s : State) (i : SlotNo) (f : GroupSlot → GroupSlot) :
    (s.updSlot i f).host = s.host := rfl
@[simp] theorem State.updSlot_grp (s : State) (i : SlotNo) (f : GroupSlot → GroupSlot) :
    (s.updSlot i f).grp = { s.grp with slots := s.grp.slots.set i (f s.grp.slots[i]) } := rfl
@[simp] theorem State.updSlot_log (s : State) (i : SlotNo) (f : GroupSlot → GroupSlot) :
    (s.updSlot i f).log = s.log := rfl
@[simp] theorem State.updSlot_mport (s : State) (i : SlotNo) (f : GroupSlot → GroupSlot) :
    (s.updSlot i f).mport = s.mport := rfl
@[simp] theorem State.updSlot_link (s : State) (i : SlotNo) (f : GroupSlot → GroupSlot) :
    (s.updSlot i f).link = s.link := rfl
@[simp] theorem State.updSlot_notes (s : State) (i : SlotNo) (f : GroupSlot → GroupSlot) :
    (s.updSlot i f).notes = s.notes := rfl
@[simp] theorem State.updSlot_pfwHigh (s : State) (i : SlotNo) (f : GroupSlot → GroupSlot) :
    (s.updSlot i f).pfwHigh = s.pfwHigh := rfl
@[simp] theorem State.updSlot_resumeAt (s : State) (i : SlotNo) (f : GroupSlot → GroupSlot) :
    (s.updSlot i f).resumeAt = s.resumeAt := rfl
@[simp] theorem State.updSlot_now (s : State) (i : SlotNo) (f : GroupSlot → GroupSlot) :
    (s.updSlot i f).now = s.now := rfl
@[simp] theorem State.updSlot_mem (s : State) (i : SlotNo) (f : GroupSlot → GroupSlot) :
    (s.updSlot i f).mem = s.mem := rfl
@[simp] theorem State.updSlot_pending (s : State) (i : SlotNo) (f : GroupSlot → GroupSlot) :
    (s.updSlot i f).pending = s.pending := rfl

@[simp] theorem State.setTag_power (s : State) (t : MTag) (e : TagEntry) : (s.setTag t e).power = s.power := rfl
@[simp] theorem State.setTag_bridge (s : State) (t : MTag) (e : TagEntry) : (s.setTag t e).bridge = s.bridge := rfl
@[simp] theorem State.setTag_start (s : State) (t : MTag) (e : TagEntry) : (s.setTag t e).start = s.start := rfl
@[simp] theorem State.setTag_regions (s : State) (t : MTag) (e : TagEntry) : (s.setTag t e).regions = s.regions := rfl
@[simp] theorem State.setTag_host (s : State) (t : MTag) (e : TagEntry) : (s.setTag t e).host = s.host := rfl
@[simp] theorem State.setTag_grp (s : State) (t : MTag) (e : TagEntry) : (s.setTag t e).grp = s.grp := rfl
@[simp] theorem State.setTag_log (s : State) (t : MTag) (e : TagEntry) : (s.setTag t e).log = s.log := rfl
@[simp] theorem State.setTag_mport (s : State) (t : MTag) (e : TagEntry) :
    (s.setTag t e).mport = { s.mport with tags := s.mport.tags.set t e } := rfl
@[simp] theorem State.setTag_link (s : State) (t : MTag) (e : TagEntry) : (s.setTag t e).link = s.link := rfl
@[simp] theorem State.setTag_notes (s : State) (t : MTag) (e : TagEntry) : (s.setTag t e).notes = s.notes := rfl
@[simp] theorem State.setTag_pfwHigh (s : State) (t : MTag) (e : TagEntry) : (s.setTag t e).pfwHigh = s.pfwHigh := rfl
@[simp] theorem State.setTag_resumeAt (s : State) (t : MTag) (e : TagEntry) :
    (s.setTag t e).resumeAt = s.resumeAt := rfl
@[simp] theorem State.setTag_now (s : State) (t : MTag) (e : TagEntry) : (s.setTag t e).now = s.now := rfl
@[simp] theorem State.setTag_mem (s : State) (t : MTag) (e : TagEntry) : (s.setTag t e).mem = s.mem := rfl
@[simp] theorem State.setTag_pending (s : State) (t : MTag) (e : TagEntry) : (s.setTag t e).pending = s.pending := rfl

@[simp] theorem State.count_power (s : State) (f : Counters → Counters) : (s.count f).power = s.power := rfl
@[simp] theorem State.count_bridge (s : State) (f : Counters → Counters) : (s.count f).bridge = s.bridge := rfl
@[simp] theorem State.count_start (s : State) (f : Counters → Counters) : (s.count f).start = s.start := rfl
@[simp] theorem State.count_regions (s : State) (f : Counters → Counters) : (s.count f).regions = s.regions := rfl
@[simp] theorem State.count_host (s : State) (f : Counters → Counters) : (s.count f).host = s.host := rfl
@[simp] theorem State.count_grp (s : State) (f : Counters → Counters) : (s.count f).grp = s.grp := rfl
@[simp] theorem State.count_log (s : State) (f : Counters → Counters) : (s.count f).log = s.log := rfl
@[simp] theorem State.count_mport (s : State) (f : Counters → Counters) : (s.count f).mport = s.mport := rfl
@[simp] theorem State.count_link (s : State) (f : Counters → Counters) : (s.count f).link = s.link := rfl
@[simp] theorem State.count_notes (s : State) (f : Counters → Counters) :
    (s.count f).notes = { s.notes with counters := f s.notes.counters } := rfl
@[simp] theorem State.count_pfwHigh (s : State) (f : Counters → Counters) : (s.count f).pfwHigh = s.pfwHigh := rfl
@[simp] theorem State.count_resumeAt (s : State) (f : Counters → Counters) :
    (s.count f).resumeAt = s.resumeAt := rfl
@[simp] theorem State.count_now (s : State) (f : Counters → Counters) : (s.count f).now = s.now := rfl
@[simp] theorem State.count_mem (s : State) (f : Counters → Counters) : (s.count f).mem = s.mem := rfl
@[simp] theorem State.count_pending (s : State) (f : Counters → Counters) : (s.count f).pending = s.pending := rfl

@[simp] theorem State.post_power (s : State) (k : NoticeKind) (key : Key) (d : Detail) (c p : Nat) :
    (s.post k key d c p).power = s.power := rfl
@[simp] theorem State.post_bridge (s : State) (k : NoticeKind) (key : Key) (d : Detail) (c p : Nat) :
    (s.post k key d c p).bridge = s.bridge := rfl
@[simp] theorem State.post_start (s : State) (k : NoticeKind) (key : Key) (d : Detail) (c p : Nat) :
    (s.post k key d c p).start = s.start := rfl
@[simp] theorem State.post_regions (s : State) (k : NoticeKind) (key : Key) (d : Detail) (c p : Nat) :
    (s.post k key d c p).regions = s.regions := rfl
@[simp] theorem State.post_host (s : State) (k : NoticeKind) (key : Key) (d : Detail) (c p : Nat) :
    (s.post k key d c p).host = s.host := rfl
@[simp] theorem State.post_grp (s : State) (k : NoticeKind) (key : Key) (d : Detail) (c p : Nat) :
    (s.post k key d c p).grp = s.grp := rfl
@[simp] theorem State.post_log (s : State) (k : NoticeKind) (key : Key) (d : Detail) (c p : Nat) :
    (s.post k key d c p).log = s.log := rfl
@[simp] theorem State.post_mport (s : State) (k : NoticeKind) (key : Key) (d : Detail) (c p : Nat) :
    (s.post k key d c p).mport = s.mport := rfl
@[simp] theorem State.post_link (s : State) (k : NoticeKind) (key : Key) (d : Detail) (c p : Nat) :
    (s.post k key d c p).link = s.link := rfl
@[simp] theorem State.post_notes (s : State) (k : NoticeKind) (key : Key) (d : Detail) (c p : Nat) :
    (s.post k key d c p).notes = { s.notes with
      queue := placeNotice s.notes.queue ⟨k, 0, s.notes.next, key, d, min c 65535, p⟩
      next := (s.notes.next + 1) % 65536 } := rfl
@[simp] theorem State.post_pfwHigh (s : State) (k : NoticeKind) (key : Key) (d : Detail) (c p : Nat) :
    (s.post k key d c p).pfwHigh = s.pfwHigh := rfl
@[simp] theorem State.post_resumeAt (s : State) (k : NoticeKind) (key : Key) (d : Detail) (c p : Nat) :
    (s.post k key d c p).resumeAt = s.resumeAt := rfl
@[simp] theorem State.post_now (s : State) (k : NoticeKind) (key : Key) (d : Detail) (c p : Nat) :
    (s.post k key d c p).now = s.now := rfl
@[simp] theorem State.post_mem (s : State) (k : NoticeKind) (key : Key) (d : Detail) (c p : Nat) :
    (s.post k key d c p).mem = s.mem := rfl
@[simp] theorem State.post_pending (s : State) (k : NoticeKind) (key : Key) (d : Detail) (c p : Nat) :
    (s.post k key d c p).pending = s.pending := rfl

@[simp] theorem State.respond_power (s : State) (src : Source) (tag : ReqTag) (a : Answer) (b : Bool) :
    (s.respond src tag a b).power = s.power := rfl
@[simp] theorem State.respond_bridge (s : State) (src : Source) (tag : ReqTag) (a : Answer) (b : Bool) :
    (s.respond src tag a b).bridge = s.bridge := rfl
@[simp] theorem State.respond_start (s : State) (src : Source) (tag : ReqTag) (a : Answer) (b : Bool) :
    (s.respond src tag a b).start = s.start := rfl
@[simp] theorem State.respond_regions (s : State) (src : Source) (tag : ReqTag) (a : Answer) (b : Bool) :
    (s.respond src tag a b).regions = s.regions := rfl
@[simp] theorem State.respond_host (s : State) (src : Source) (tag : ReqTag) (a : Answer) (b : Bool) :
    (s.respond src tag a b).host = { s.host with responses := s.host.responses ++ [⟨src, tag, a, b⟩] } := rfl
@[simp] theorem State.respond_grp (s : State) (src : Source) (tag : ReqTag) (a : Answer) (b : Bool) :
    (s.respond src tag a b).grp = s.grp := rfl
@[simp] theorem State.respond_log (s : State) (src : Source) (tag : ReqTag) (a : Answer) (b : Bool) :
    (s.respond src tag a b).log = s.log := rfl
@[simp] theorem State.respond_mport (s : State) (src : Source) (tag : ReqTag) (a : Answer) (b : Bool) :
    (s.respond src tag a b).mport = s.mport := rfl
@[simp] theorem State.respond_link (s : State) (src : Source) (tag : ReqTag) (a : Answer) (b : Bool) :
    (s.respond src tag a b).link = s.link := rfl
@[simp] theorem State.respond_notes (s : State) (src : Source) (tag : ReqTag) (a : Answer) (b : Bool) :
    (s.respond src tag a b).notes = s.notes := rfl
@[simp] theorem State.respond_pfwHigh (s : State) (src : Source) (tag : ReqTag) (a : Answer) (b : Bool) :
    (s.respond src tag a b).pfwHigh = s.pfwHigh := rfl
@[simp] theorem State.respond_resumeAt (s : State) (src : Source) (tag : ReqTag) (a : Answer) (b : Bool) :
    (s.respond src tag a b).resumeAt = s.resumeAt := rfl
@[simp] theorem State.respond_now (s : State) (src : Source) (tag : ReqTag) (a : Answer) (b : Bool) :
    (s.respond src tag a b).now = s.now := rfl
@[simp] theorem State.respond_mem (s : State) (src : Source) (tag : ReqTag) (a : Answer) (b : Bool) :
    (s.respond src tag a b).mem = s.mem := rfl
@[simp] theorem State.respond_pending (s : State) (src : Source) (tag : ReqTag) (a : Answer) (b : Bool) :
    (s.respond src tag a b).pending = s.pending := rfl

@[simp] theorem State.refuse_power (s : State) (r : Request) (why : Reason) : (s.refuse r why).power = s.power := rfl
@[simp] theorem State.refuse_bridge (s : State) (r : Request) (why : Reason) :
    (s.refuse r why).bridge = s.bridge := rfl
@[simp] theorem State.refuse_start (s : State) (r : Request) (why : Reason) : (s.refuse r why).start = s.start := rfl
@[simp] theorem State.refuse_regions (s : State) (r : Request) (why : Reason) :
    (s.refuse r why).regions = s.regions := rfl
@[simp] theorem State.refuse_host (s : State) (r : Request) (why : Reason) :
    (s.refuse r why).host = { s.host with responses := s.host.responses ++ [⟨r.source, r.tag, .refused why, false⟩] } := rfl
@[simp] theorem State.refuse_grp (s : State) (r : Request) (why : Reason) : (s.refuse r why).grp = s.grp := rfl
@[simp] theorem State.refuse_log (s : State) (r : Request) (why : Reason) : (s.refuse r why).log = s.log := rfl
@[simp] theorem State.refuse_mport (s : State) (r : Request) (why : Reason) : (s.refuse r why).mport = s.mport := rfl
@[simp] theorem State.refuse_link (s : State) (r : Request) (why : Reason) : (s.refuse r why).link = s.link := rfl
@[simp] theorem State.refuse_notes (s : State) (r : Request) (why : Reason) : (s.refuse r why).notes = s.notes := rfl
@[simp] theorem State.refuse_pfwHigh (s : State) (r : Request) (why : Reason) :
    (s.refuse r why).pfwHigh = s.pfwHigh := rfl
@[simp] theorem State.refuse_resumeAt (s : State) (r : Request) (why : Reason) :
    (s.refuse r why).resumeAt = s.resumeAt := rfl
@[simp] theorem State.refuse_now (s : State) (r : Request) (why : Reason) : (s.refuse r why).now = s.now := rfl
@[simp] theorem State.refuse_mem (s : State) (r : Request) (why : Reason) : (s.refuse r why).mem = s.mem := rfl
@[simp] theorem State.refuse_pending (s : State) (r : Request) (why : Reason) :
    (s.refuse r why).pending = s.pending := rfl

@[simp] theorem State.setStage_power (s : State) (src : Source) (tag : ReqTag) (st : Stage) :
    (s.setStage src tag st).power = s.power := rfl
@[simp] theorem State.setStage_bridge (s : State) (src : Source) (tag : ReqTag) (st : Stage) :
    (s.setStage src tag st).bridge = s.bridge := rfl
@[simp] theorem State.setStage_start (s : State) (src : Source) (tag : ReqTag) (st : Stage) :
    (s.setStage src tag st).start = s.start := rfl
@[simp] theorem State.setStage_regions (s : State) (src : Source) (tag : ReqTag) (st : Stage) :
    (s.setStage src tag st).regions = s.regions := rfl
@[simp] theorem State.setStage_host (s : State) (src : Source) (tag : ReqTag) (st : Stage) :
    (s.setStage src tag st).host = { s.host with
      inflight := s.host.inflight.map fun e => if e.isLive src tag then { e with stage := st } else e } := rfl
@[simp] theorem State.setStage_grp (s : State) (src : Source) (tag : ReqTag) (st : Stage) :
    (s.setStage src tag st).grp = s.grp := rfl
@[simp] theorem State.setStage_log (s : State) (src : Source) (tag : ReqTag) (st : Stage) :
    (s.setStage src tag st).log = s.log := rfl
@[simp] theorem State.setStage_mport (s : State) (src : Source) (tag : ReqTag) (st : Stage) :
    (s.setStage src tag st).mport = s.mport := rfl
@[simp] theorem State.setStage_link (s : State) (src : Source) (tag : ReqTag) (st : Stage) :
    (s.setStage src tag st).link = s.link := rfl
@[simp] theorem State.setStage_notes (s : State) (src : Source) (tag : ReqTag) (st : Stage) :
    (s.setStage src tag st).notes = s.notes := rfl
@[simp] theorem State.setStage_pfwHigh (s : State) (src : Source) (tag : ReqTag) (st : Stage) :
    (s.setStage src tag st).pfwHigh = s.pfwHigh := rfl
@[simp] theorem State.setStage_resumeAt (s : State) (src : Source) (tag : ReqTag) (st : Stage) :
    (s.setStage src tag st).resumeAt = s.resumeAt := rfl
@[simp] theorem State.setStage_now (s : State) (src : Source) (tag : ReqTag) (st : Stage) :
    (s.setStage src tag st).now = s.now := rfl
@[simp] theorem State.setStage_mem (s : State) (src : Source) (tag : ReqTag) (st : Stage) :
    (s.setStage src tag st).mem = s.mem := rfl
@[simp] theorem State.setStage_pending (s : State) (src : Source) (tag : ReqTag) (st : Stage) :
    (s.setStage src tag st).pending = s.pending := rfl

@[simp] theorem State.handOver_power (s : State) (q : MReq) : (s.handOver q).power = s.power := rfl
@[simp] theorem State.handOver_bridge (s : State) (q : MReq) : (s.handOver q).bridge = s.bridge := rfl
@[simp] theorem State.handOver_start (s : State) (q : MReq) : (s.handOver q).start = s.start := rfl
@[simp] theorem State.handOver_regions (s : State) (q : MReq) : (s.handOver q).regions = s.regions := rfl
@[simp] theorem State.handOver_host (s : State) (q : MReq) : (s.handOver q).host = s.host := rfl
@[simp] theorem State.handOver_grp (s : State) (q : MReq) : (s.handOver q).grp = s.grp := rfl
@[simp] theorem State.handOver_log (s : State) (q : MReq) : (s.handOver q).log = s.log := rfl
@[simp] theorem State.handOver_mport (s : State) (q : MReq) :
    (s.handOver q).mport = s.mport.setQueue q.ref.cls (s.mport.queue q.ref.cls ++ [q]) := rfl
@[simp] theorem State.handOver_link (s : State) (q : MReq) : (s.handOver q).link = s.link := rfl
@[simp] theorem State.handOver_notes (s : State) (q : MReq) : (s.handOver q).notes = s.notes := rfl
@[simp] theorem State.handOver_pfwHigh (s : State) (q : MReq) : (s.handOver q).pfwHigh = s.pfwHigh := rfl
@[simp] theorem State.handOver_resumeAt (s : State) (q : MReq) : (s.handOver q).resumeAt = s.resumeAt := rfl
@[simp] theorem State.handOver_now (s : State) (q : MReq) : (s.handOver q).now = s.now := rfl
@[simp] theorem State.handOver_mem (s : State) (q : MReq) : (s.handOver q).mem = s.mem := rfl
@[simp] theorem State.handOver_pending (s : State) (q : MReq) : (s.handOver q).pending = s.pending := rfl

@[simp] theorem State.withdraw_power (s : State) (p : Ref → Bool) : (s.withdraw p).power = s.power := rfl
@[simp] theorem State.withdraw_bridge (s : State) (p : Ref → Bool) : (s.withdraw p).bridge = s.bridge := rfl
@[simp] theorem State.withdraw_start (s : State) (p : Ref → Bool) : (s.withdraw p).start = s.start := rfl
@[simp] theorem State.withdraw_regions (s : State) (p : Ref → Bool) : (s.withdraw p).regions = s.regions := rfl
@[simp] theorem State.withdraw_host (s : State) (p : Ref → Bool) : (s.withdraw p).host = s.host := rfl
@[simp] theorem State.withdraw_grp (s : State) (p : Ref → Bool) : (s.withdraw p).grp = s.grp := rfl
@[simp] theorem State.withdraw_log (s : State) (p : Ref → Bool) : (s.withdraw p).log = s.log := rfl
@[simp] theorem State.withdraw_mport (s : State) (p : Ref → Bool) :
    (s.withdraw p).mport = { s.mport with
      logQ := s.mport.logQ.filter fun q => !p q.ref
      rollbackQ := s.mport.rollbackQ.filter fun q => !p q.ref
      trafficQ := s.mport.trafficQ.filter fun q => !p q.ref } := rfl
@[simp] theorem State.withdraw_link (s : State) (p : Ref → Bool) : (s.withdraw p).link = s.link := rfl
@[simp] theorem State.withdraw_notes (s : State) (p : Ref → Bool) : (s.withdraw p).notes = s.notes := rfl
@[simp] theorem State.withdraw_pfwHigh (s : State) (p : Ref → Bool) : (s.withdraw p).pfwHigh = s.pfwHigh := rfl
@[simp] theorem State.withdraw_resumeAt (s : State) (p : Ref → Bool) : (s.withdraw p).resumeAt = s.resumeAt := rfl
@[simp] theorem State.withdraw_now (s : State) (p : Ref → Bool) : (s.withdraw p).now = s.now := rfl
@[simp] theorem State.withdraw_mem (s : State) (p : Ref → Bool) : (s.withdraw p).mem = s.mem := rfl
@[simp] theorem State.withdraw_pending (s : State) (p : Ref → Bool) : (s.withdraw p).pending = s.pending := rfl

@[simp] theorem State.disown_power (s : State) (p : Ref → Bool) : (s.disown p).power = s.power := rfl
@[simp] theorem State.disown_bridge (s : State) (p : Ref → Bool) : (s.disown p).bridge = s.bridge := rfl
@[simp] theorem State.disown_start (s : State) (p : Ref → Bool) : (s.disown p).start = s.start := rfl
@[simp] theorem State.disown_regions (s : State) (p : Ref → Bool) : (s.disown p).regions = s.regions := rfl
@[simp] theorem State.disown_host (s : State) (p : Ref → Bool) : (s.disown p).host = s.host := rfl
@[simp] theorem State.disown_grp (s : State) (p : Ref → Bool) : (s.disown p).grp = s.grp := rfl
@[simp] theorem State.disown_log (s : State) (p : Ref → Bool) : (s.disown p).log = s.log := rfl
@[simp] theorem State.disown_mport (s : State) (p : Ref → Bool) :
    (s.disown p).mport = { s.mport with
      logQ := s.mport.logQ.map (MReq.disown p)
      rollbackQ := s.mport.rollbackQ.map (MReq.disown p)
      trafficQ := s.mport.trafficQ.map (MReq.disown p)
      tags := s.mport.tags.map (TagEntry.disown p) } := rfl
@[simp] theorem State.disown_link (s : State) (p : Ref → Bool) : (s.disown p).link = s.link := rfl
@[simp] theorem State.disown_notes (s : State) (p : Ref → Bool) : (s.disown p).notes = s.notes := rfl
@[simp] theorem State.disown_pfwHigh (s : State) (p : Ref → Bool) : (s.disown p).pfwHigh = s.pfwHigh := rfl
@[simp] theorem State.disown_resumeAt (s : State) (p : Ref → Bool) : (s.disown p).resumeAt = s.resumeAt := rfl
@[simp] theorem State.disown_now (s : State) (p : Ref → Bool) : (s.disown p).now = s.now := rfl
@[simp] theorem State.disown_mem (s : State) (p : Ref → Bool) : (s.disown p).mem = s.mem := rfl
@[simp] theorem State.disown_pending (s : State) (p : Ref → Bool) : (s.disown p).pending = s.pending := rfl

@[simp] theorem State.answerLink_power (s : State) (st : Status) (d : List Byte) :
    (s.answerLink st d).power = s.power := rfl
@[simp] theorem State.answerLink_bridge (s : State) (st : Status) (d : List Byte) :
    (s.answerLink st d).bridge = s.bridge := rfl
@[simp] theorem State.answerLink_start (s : State) (st : Status) (d : List Byte) :
    (s.answerLink st d).start = s.start := rfl
@[simp] theorem State.answerLink_regions (s : State) (st : Status) (d : List Byte) :
    (s.answerLink st d).regions = s.regions := rfl
@[simp] theorem State.answerLink_host (s : State) (st : Status) (d : List Byte) :
    (s.answerLink st d).host = s.host := rfl
@[simp] theorem State.answerLink_grp (s : State) (st : Status) (d : List Byte) :
    (s.answerLink st d).grp = s.grp := rfl
@[simp] theorem State.answerLink_log (s : State) (st : Status) (d : List Byte) :
    (s.answerLink st d).log = s.log := rfl
@[simp] theorem State.answerLink_mport (s : State) (st : Status) (d : List Byte) :
    (s.answerLink st d).mport = s.mport := rfl
@[simp] theorem State.answerLink_link (s : State) (st : Status) (d : List Byte) :
    (s.answerLink st d).link = { s.link with state := .idle, buffer := .answer st d } := rfl
@[simp] theorem State.answerLink_notes (s : State) (st : Status) (d : List Byte) :
    (s.answerLink st d).notes = s.notes := rfl
@[simp] theorem State.answerLink_pfwHigh (s : State) (st : Status) (d : List Byte) :
    (s.answerLink st d).pfwHigh = s.pfwHigh := rfl
@[simp] theorem State.answerLink_resumeAt (s : State) (st : Status) (d : List Byte) :
    (s.answerLink st d).resumeAt = s.resumeAt := rfl
@[simp] theorem State.answerLink_now (s : State) (st : Status) (d : List Byte) :
    (s.answerLink st d).now = s.now := rfl
@[simp] theorem State.answerLink_mem (s : State) (st : Status) (d : List Byte) :
    (s.answerLink st d).mem = s.mem := rfl
@[simp] theorem State.answerLink_pending (s : State) (st : Status) (d : List Byte) :
    (s.answerLink st d).pending = s.pending := rfl

@[simp] theorem State.setHolds_power (s : State) (hs : List Hold) : (s.setHolds hs).power = s.power := rfl
@[simp] theorem State.setHolds_bridge (s : State) (hs : List Hold) : (s.setHolds hs).bridge = s.bridge := rfl
@[simp] theorem State.setHolds_start (s : State) (hs : List Hold) : (s.setHolds hs).start = s.start := rfl
@[simp] theorem State.setHolds_regions (s : State) (hs : List Hold) : (s.setHolds hs).regions = s.regions := rfl
@[simp] theorem State.setHolds_host (s : State) (hs : List Hold) :
    (s.setHolds hs).host = { s.host with holds := hs } := rfl
@[simp] theorem State.setHolds_grp (s : State) (hs : List Hold) : (s.setHolds hs).grp = s.grp := rfl
@[simp] theorem State.setHolds_log (s : State) (hs : List Hold) : (s.setHolds hs).log = s.log := rfl
@[simp] theorem State.setHolds_mport (s : State) (hs : List Hold) : (s.setHolds hs).mport = s.mport := rfl
@[simp] theorem State.setHolds_link (s : State) (hs : List Hold) : (s.setHolds hs).link = s.link := rfl
@[simp] theorem State.setHolds_notes (s : State) (hs : List Hold) : (s.setHolds hs).notes = s.notes := rfl
@[simp] theorem State.setHolds_pfwHigh (s : State) (hs : List Hold) : (s.setHolds hs).pfwHigh = s.pfwHigh := rfl
@[simp] theorem State.setHolds_resumeAt (s : State) (hs : List Hold) : (s.setHolds hs).resumeAt = s.resumeAt := rfl
@[simp] theorem State.setHolds_now (s : State) (hs : List Hold) : (s.setHolds hs).now = s.now := rfl
@[simp] theorem State.setHolds_mem (s : State) (hs : List Hold) : (s.setHolds hs).mem = s.mem := rfl
@[simp] theorem State.setHolds_pending (s : State) (hs : List Hold) : (s.setHolds hs).pending = s.pending := rfl

@[simp] theorem State.wake_power (s : State) (p : Hold → Bool) : (s.wake p).power = s.power := rfl
@[simp] theorem State.wake_bridge (s : State) (p : Hold → Bool) : (s.wake p).bridge = s.bridge := rfl
@[simp] theorem State.wake_start (s : State) (p : Hold → Bool) : (s.wake p).start = s.start := rfl
@[simp] theorem State.wake_regions (s : State) (p : Hold → Bool) : (s.wake p).regions = s.regions := rfl
@[simp] theorem State.wake_host (s : State) (p : Hold → Bool) :
    (s.wake p).host = { s.host with holds := s.host.holds.map fun h => if p h then { h with marked := true } else h } := rfl
@[simp] theorem State.wake_grp (s : State) (p : Hold → Bool) : (s.wake p).grp = s.grp := rfl
@[simp] theorem State.wake_log (s : State) (p : Hold → Bool) : (s.wake p).log = s.log := rfl
@[simp] theorem State.wake_mport (s : State) (p : Hold → Bool) : (s.wake p).mport = s.mport := rfl
@[simp] theorem State.wake_link (s : State) (p : Hold → Bool) : (s.wake p).link = s.link := rfl
@[simp] theorem State.wake_notes (s : State) (p : Hold → Bool) : (s.wake p).notes = s.notes := rfl
@[simp] theorem State.wake_pfwHigh (s : State) (p : Hold → Bool) : (s.wake p).pfwHigh = s.pfwHigh := rfl
@[simp] theorem State.wake_resumeAt (s : State) (p : Hold → Bool) : (s.wake p).resumeAt = s.resumeAt := rfl
@[simp] theorem State.wake_now (s : State) (p : Hold → Bool) : (s.wake p).now = s.now := rfl
@[simp] theorem State.wake_mem (s : State) (p : Hold → Bool) : (s.wake p).mem = s.mem := rfl
@[simp] theorem State.wake_pending (s : State) (p : Hold → Bool) : (s.wake p).pending = s.pending := rfl

@[simp] theorem State.wakeRoom_power (s : State) (r : Room) : (s.wakeRoom r).power = s.power := rfl
@[simp] theorem State.wakeRoom_bridge (s : State) (r : Room) : (s.wakeRoom r).bridge = s.bridge := rfl
@[simp] theorem State.wakeRoom_start (s : State) (r : Room) : (s.wakeRoom r).start = s.start := rfl
@[simp] theorem State.wakeRoom_regions (s : State) (r : Room) : (s.wakeRoom r).regions = s.regions := rfl
@[simp] theorem State.wakeRoom_host (s : State) (r : Room) :
    (s.wakeRoom r).host = { s.host with
      paused := s.host.paused.map (Pause.free r)
      holds := s.host.holds.map fun h => if decide (h.room = some r) then { h with marked := true } else h } := rfl
@[simp] theorem State.wakeRoom_grp (s : State) (r : Room) : (s.wakeRoom r).grp = s.grp := rfl
@[simp] theorem State.wakeRoom_log (s : State) (r : Room) : (s.wakeRoom r).log = s.log := rfl
@[simp] theorem State.wakeRoom_mport (s : State) (r : Room) : (s.wakeRoom r).mport = s.mport := rfl
@[simp] theorem State.wakeRoom_link (s : State) (r : Room) : (s.wakeRoom r).link = s.link := rfl
@[simp] theorem State.wakeRoom_notes (s : State) (r : Room) : (s.wakeRoom r).notes = s.notes := rfl
@[simp] theorem State.wakeRoom_pfwHigh (s : State) (r : Room) : (s.wakeRoom r).pfwHigh = s.pfwHigh := rfl
@[simp] theorem State.wakeRoom_resumeAt (s : State) (r : Room) : (s.wakeRoom r).resumeAt = s.resumeAt := rfl
@[simp] theorem State.wakeRoom_now (s : State) (r : Room) : (s.wakeRoom r).now = s.now := rfl
@[simp] theorem State.wakeRoom_mem (s : State) (r : Room) : (s.wakeRoom r).mem = s.mem := rfl
@[simp] theorem State.wakeRoom_pending (s : State) (r : Room) : (s.wakeRoom r).pending = s.pending := rfl

@[simp] theorem State.recomputeTail_power (s : State) : (s.recomputeTail).power = s.power := rfl
@[simp] theorem State.recomputeTail_bridge (s : State) : (s.recomputeTail).bridge = s.bridge := rfl
@[simp] theorem State.recomputeTail_start (s : State) : (s.recomputeTail).start = s.start := rfl
@[simp] theorem State.recomputeTail_regions (s : State) : (s.recomputeTail).regions = s.regions := rfl
@[simp] theorem State.recomputeTail_host (s : State) : (s.recomputeTail).host = s.host := rfl
@[simp] theorem State.recomputeTail_grp (s : State) : (s.recomputeTail).grp = s.grp := rfl
@[simp] theorem State.recomputeTail_log (s : State) :
    (s.recomputeTail).log = { s.log with volatileTail := s.lowestFirst } := rfl
@[simp] theorem State.recomputeTail_mport (s : State) : (s.recomputeTail).mport = s.mport := rfl
@[simp] theorem State.recomputeTail_link (s : State) : (s.recomputeTail).link = s.link := rfl
@[simp] theorem State.recomputeTail_notes (s : State) : (s.recomputeTail).notes = s.notes := rfl
@[simp] theorem State.recomputeTail_pfwHigh (s : State) : (s.recomputeTail).pfwHigh = s.pfwHigh := rfl
@[simp] theorem State.recomputeTail_resumeAt (s : State) : (s.recomputeTail).resumeAt = s.resumeAt := rfl
@[simp] theorem State.recomputeTail_now (s : State) : (s.recomputeTail).now = s.now := rfl
@[simp] theorem State.recomputeTail_mem (s : State) : (s.recomputeTail).mem = s.mem := rfl
@[simp] theorem State.recomputeTail_pending (s : State) : (s.recomputeTail).pending = s.pending := rfl

@[simp] theorem State.joinQueue_power (s : State) (i : SlotNo) : (s.joinQueue i).power = s.power := rfl
@[simp] theorem State.joinQueue_bridge (s : State) (i : SlotNo) : (s.joinQueue i).bridge = s.bridge := rfl
@[simp] theorem State.joinQueue_start (s : State) (i : SlotNo) : (s.joinQueue i).start = s.start := rfl
@[simp] theorem State.joinQueue_regions (s : State) (i : SlotNo) : (s.joinQueue i).regions = s.regions := rfl
@[simp] theorem State.joinQueue_host (s : State) (i : SlotNo) : (s.joinQueue i).host = s.host := rfl
@[simp] theorem State.joinQueue_grp (s : State) (i : SlotNo) :
    (s.joinQueue i).grp = { s.grp with queue := s.grp.queue ++ [i] } := rfl
@[simp] theorem State.joinQueue_log (s : State) (i : SlotNo) : (s.joinQueue i).log = s.log := rfl
@[simp] theorem State.joinQueue_mport (s : State) (i : SlotNo) : (s.joinQueue i).mport = s.mport := rfl
@[simp] theorem State.joinQueue_link (s : State) (i : SlotNo) : (s.joinQueue i).link = s.link := rfl
@[simp] theorem State.joinQueue_notes (s : State) (i : SlotNo) : (s.joinQueue i).notes = s.notes := rfl
@[simp] theorem State.joinQueue_pfwHigh (s : State) (i : SlotNo) : (s.joinQueue i).pfwHigh = s.pfwHigh := rfl
@[simp] theorem State.joinQueue_resumeAt (s : State) (i : SlotNo) : (s.joinQueue i).resumeAt = s.resumeAt := rfl
@[simp] theorem State.joinQueue_now (s : State) (i : SlotNo) : (s.joinQueue i).now = s.now := rfl
@[simp] theorem State.joinQueue_mem (s : State) (i : SlotNo) : (s.joinQueue i).mem = s.mem := rfl
@[simp] theorem State.joinQueue_pending (s : State) (i : SlotNo) : (s.joinQueue i).pending = s.pending := rfl

@[simp] theorem State.requestClosing_power (s : State) (i : SlotNo) (what : Closing) :
    (s.requestClosing i what).power = s.power := rfl
@[simp] theorem State.requestClosing_bridge (s : State) (i : SlotNo) (what : Closing) :
    (s.requestClosing i what).bridge = s.bridge := rfl
@[simp] theorem State.requestClosing_start (s : State) (i : SlotNo) (what : Closing) :
    (s.requestClosing i what).start = s.start := rfl
@[simp] theorem State.requestClosing_regions (s : State) (i : SlotNo) (what : Closing) :
    (s.requestClosing i what).regions = s.regions := rfl
@[simp] theorem State.requestClosing_host (s : State) (i : SlotNo) (what : Closing) :
    (s.requestClosing i what).host = s.host := rfl
@[simp] theorem State.requestClosing_grp (s : State) (i : SlotNo) (what : Closing) :
    (s.requestClosing i what).grp = s.grp := rfl
@[simp] theorem State.requestClosing_log (s : State) (i : SlotNo) (what : Closing) :
    (s.requestClosing i what).log = { s.log with due := s.log.due ++ [⟨i, what⟩] } := rfl
@[simp] theorem State.requestClosing_mport (s : State) (i : SlotNo) (what : Closing) :
    (s.requestClosing i what).mport = s.mport := rfl
@[simp] theorem State.requestClosing_link (s : State) (i : SlotNo) (what : Closing) :
    (s.requestClosing i what).link = s.link := rfl
@[simp] theorem State.requestClosing_notes (s : State) (i : SlotNo) (what : Closing) :
    (s.requestClosing i what).notes = s.notes := rfl
@[simp] theorem State.requestClosing_pfwHigh (s : State) (i : SlotNo) (what : Closing) :
    (s.requestClosing i what).pfwHigh = s.pfwHigh := rfl
@[simp] theorem State.requestClosing_resumeAt (s : State) (i : SlotNo) (what : Closing) :
    (s.requestClosing i what).resumeAt = s.resumeAt := rfl
@[simp] theorem State.requestClosing_now (s : State) (i : SlotNo) (what : Closing) :
    (s.requestClosing i what).now = s.now := rfl
@[simp] theorem State.requestClosing_mem (s : State) (i : SlotNo) (what : Closing) :
    (s.requestClosing i what).mem = s.mem := rfl
@[simp] theorem State.requestClosing_pending (s : State) (i : SlotNo) (what : Closing) :
    (s.requestClosing i what).pending = s.pending := rfl

@[simp] theorem State.enterFlight_power (s : State) (e : Inflight) : (s.enterFlight e).power = s.power := rfl
@[simp] theorem State.enterFlight_bridge (s : State) (e : Inflight) : (s.enterFlight e).bridge = s.bridge := rfl
@[simp] theorem State.enterFlight_start (s : State) (e : Inflight) : (s.enterFlight e).start = s.start := rfl
@[simp] theorem State.enterFlight_regions (s : State) (e : Inflight) : (s.enterFlight e).regions = s.regions := rfl
@[simp] theorem State.enterFlight_host (s : State) (e : Inflight) :
    (s.enterFlight e).host = { s.host with inflight := s.host.inflight ++ [e] } := rfl
@[simp] theorem State.enterFlight_grp (s : State) (e : Inflight) : (s.enterFlight e).grp = s.grp := rfl
@[simp] theorem State.enterFlight_log (s : State) (e : Inflight) : (s.enterFlight e).log = s.log := rfl
@[simp] theorem State.enterFlight_mport (s : State) (e : Inflight) : (s.enterFlight e).mport = s.mport := rfl
@[simp] theorem State.enterFlight_link (s : State) (e : Inflight) : (s.enterFlight e).link = s.link := rfl
@[simp] theorem State.enterFlight_notes (s : State) (e : Inflight) : (s.enterFlight e).notes = s.notes := rfl
@[simp] theorem State.enterFlight_pfwHigh (s : State) (e : Inflight) : (s.enterFlight e).pfwHigh = s.pfwHigh := rfl
@[simp] theorem State.enterFlight_resumeAt (s : State) (e : Inflight) : (s.enterFlight e).resumeAt = s.resumeAt := rfl
@[simp] theorem State.enterFlight_now (s : State) (e : Inflight) : (s.enterFlight e).now = s.now := rfl
@[simp] theorem State.enterFlight_mem (s : State) (e : Inflight) : (s.enterFlight e).mem = s.mem := rfl
@[simp] theorem State.enterFlight_pending (s : State) (e : Inflight) : (s.enterFlight e).pending = s.pending := rfl

@[simp] theorem State.takeFront_power (s : State) : (s.takeFront).power = s.power := rfl
@[simp] theorem State.takeFront_bridge (s : State) : (s.takeFront).bridge = s.bridge := rfl
@[simp] theorem State.takeFront_start (s : State) : (s.takeFront).start = s.start := rfl
@[simp] theorem State.takeFront_regions (s : State) : (s.takeFront).regions = s.regions := rfl
@[simp] theorem State.takeFront_host (s : State) :
    (s.takeFront).host = { s.host with intake := s.host.intake.tail, paused := none } := rfl
@[simp] theorem State.takeFront_grp (s : State) : (s.takeFront).grp = s.grp := rfl
@[simp] theorem State.takeFront_log (s : State) : (s.takeFront).log = s.log := rfl
@[simp] theorem State.takeFront_mport (s : State) : (s.takeFront).mport = s.mport := rfl
@[simp] theorem State.takeFront_link (s : State) : (s.takeFront).link = s.link := rfl
@[simp] theorem State.takeFront_notes (s : State) : (s.takeFront).notes = s.notes := rfl
@[simp] theorem State.takeFront_pfwHigh (s : State) : (s.takeFront).pfwHigh = s.pfwHigh := rfl
@[simp] theorem State.takeFront_resumeAt (s : State) : (s.takeFront).resumeAt = s.resumeAt := rfl
@[simp] theorem State.takeFront_now (s : State) : (s.takeFront).now = s.now := rfl
@[simp] theorem State.takeFront_mem (s : State) : (s.takeFront).mem = s.mem := rfl
@[simp] theorem State.takeFront_pending (s : State) : (s.takeFront).pending = s.pending := rfl

@[simp] theorem State.pauseFor_power (s : State) (r : Room) : (s.pauseFor r).power = s.power := rfl
@[simp] theorem State.pauseFor_bridge (s : State) (r : Room) : (s.pauseFor r).bridge = s.bridge := rfl
@[simp] theorem State.pauseFor_start (s : State) (r : Room) : (s.pauseFor r).start = s.start := rfl
@[simp] theorem State.pauseFor_regions (s : State) (r : Room) : (s.pauseFor r).regions = s.regions := rfl
@[simp] theorem State.pauseFor_host (s : State) (r : Room) :
    (s.pauseFor r).host = { s.host with paused := some ⟨r, false⟩ } := rfl
@[simp] theorem State.pauseFor_grp (s : State) (r : Room) : (s.pauseFor r).grp = s.grp := rfl
@[simp] theorem State.pauseFor_log (s : State) (r : Room) : (s.pauseFor r).log = s.log := rfl
@[simp] theorem State.pauseFor_mport (s : State) (r : Room) : (s.pauseFor r).mport = s.mport := rfl
@[simp] theorem State.pauseFor_link (s : State) (r : Room) : (s.pauseFor r).link = s.link := rfl
@[simp] theorem State.pauseFor_notes (s : State) (r : Room) : (s.pauseFor r).notes = s.notes := rfl
@[simp] theorem State.pauseFor_pfwHigh (s : State) (r : Room) : (s.pauseFor r).pfwHigh = s.pfwHigh := rfl
@[simp] theorem State.pauseFor_resumeAt (s : State) (r : Room) : (s.pauseFor r).resumeAt = s.resumeAt := rfl
@[simp] theorem State.pauseFor_now (s : State) (r : Room) : (s.pauseFor r).now = s.now := rfl
@[simp] theorem State.pauseFor_mem (s : State) (r : Room) : (s.pauseFor r).mem = s.mem := rfl
@[simp] theorem State.pauseFor_pending (s : State) (r : Room) : (s.pauseFor r).pending = s.pending := rfl

@[simp] theorem State.setWalk_power (s : State) (w : Option Walk) : (s.setWalk w).power = s.power := rfl
@[simp] theorem State.setWalk_bridge (s : State) (w : Option Walk) : (s.setWalk w).bridge = s.bridge := rfl
@[simp] theorem State.setWalk_start (s : State) (w : Option Walk) : (s.setWalk w).start = s.start := rfl
@[simp] theorem State.setWalk_regions (s : State) (w : Option Walk) : (s.setWalk w).regions = s.regions := rfl
@[simp] theorem State.setWalk_host (s : State) (w : Option Walk) : (s.setWalk w).host = s.host := rfl
@[simp] theorem State.setWalk_grp (s : State) (w : Option Walk) : (s.setWalk w).grp = { s.grp with walk := w } := rfl
@[simp] theorem State.setWalk_log (s : State) (w : Option Walk) : (s.setWalk w).log = s.log := rfl
@[simp] theorem State.setWalk_mport (s : State) (w : Option Walk) : (s.setWalk w).mport = s.mport := rfl
@[simp] theorem State.setWalk_link (s : State) (w : Option Walk) : (s.setWalk w).link = s.link := rfl
@[simp] theorem State.setWalk_notes (s : State) (w : Option Walk) : (s.setWalk w).notes = s.notes := rfl
@[simp] theorem State.setWalk_pfwHigh (s : State) (w : Option Walk) : (s.setWalk w).pfwHigh = s.pfwHigh := rfl
@[simp] theorem State.setWalk_resumeAt (s : State) (w : Option Walk) : (s.setWalk w).resumeAt = s.resumeAt := rfl
@[simp] theorem State.setWalk_now (s : State) (w : Option Walk) : (s.setWalk w).now = s.now := rfl
@[simp] theorem State.setWalk_mem (s : State) (w : Option Walk) : (s.setWalk w).mem = s.mem := rfl
@[simp] theorem State.setWalk_pending (s : State) (w : Option Walk) : (s.setWalk w).pending = s.pending := rfl

@[simp] theorem State.startResume_power (s : State) : (s.startResume).power = s.power := rfl
@[simp] theorem State.startResume_bridge (s : State) : (s.startResume).bridge = s.bridge := rfl
@[simp] theorem State.startResume_start (s : State) : (s.startResume).start = s.start := rfl
@[simp] theorem State.startResume_regions (s : State) : (s.startResume).regions = s.regions := rfl
@[simp] theorem State.startResume_host (s : State) : (s.startResume).host = s.host := rfl
@[simp] theorem State.startResume_grp (s : State) : (s.startResume).grp = s.grp := rfl
@[simp] theorem State.startResume_log (s : State) : (s.startResume).log = s.log := rfl
@[simp] theorem State.startResume_mport (s : State) : (s.startResume).mport = s.mport := rfl
@[simp] theorem State.startResume_link (s : State) : (s.startResume).link = s.link := rfl
@[simp] theorem State.startResume_notes (s : State) : (s.startResume).notes = s.notes := rfl
@[simp] theorem State.startResume_pfwHigh (s : State) : (s.startResume).pfwHigh = s.pfwHigh := rfl
@[simp] theorem State.startResume_resumeAt (s : State) :
    (s.startResume).resumeAt = some (s.now + s.link.policy.resumeDelay * 1000) := rfl
@[simp] theorem State.startResume_now (s : State) : (s.startResume).now = s.now := rfl
@[simp] theorem State.startResume_mem (s : State) : (s.startResume).mem = s.mem := rfl
@[simp] theorem State.startResume_pending (s : State) : (s.startResume).pending = s.pending := rfl

/-! ### Two-step updates -/

@[simp] theorem State.answerAdmitted_power (s : State) (src : Source) (tag : ReqTag) (a : Answer) :
    (s.answerAdmitted src tag a).power = s.power := rfl
@[simp] theorem State.answerAdmitted_bridge (s : State) (src : Source) (tag : ReqTag) (a : Answer) :
    (s.answerAdmitted src tag a).bridge = s.bridge := rfl
@[simp] theorem State.answerAdmitted_start (s : State) (src : Source) (tag : ReqTag) (a : Answer) :
    (s.answerAdmitted src tag a).start = s.start := rfl
@[simp] theorem State.answerAdmitted_regions (s : State) (src : Source) (tag : ReqTag) (a : Answer) :
    (s.answerAdmitted src tag a).regions = s.regions := rfl
@[simp] theorem State.answerAdmitted_host (s : State) (src : Source) (tag : ReqTag) (a : Answer) :
    (s.answerAdmitted src tag a).host = { (s.setStage src tag .done).host with
      responses := s.host.responses ++ [⟨src, tag, a, true⟩] } := rfl
@[simp] theorem State.answerAdmitted_grp (s : State) (src : Source) (tag : ReqTag) (a : Answer) :
    (s.answerAdmitted src tag a).grp = s.grp := rfl
@[simp] theorem State.answerAdmitted_log (s : State) (src : Source) (tag : ReqTag) (a : Answer) :
    (s.answerAdmitted src tag a).log = s.log := rfl
@[simp] theorem State.answerAdmitted_mport (s : State) (src : Source) (tag : ReqTag) (a : Answer) :
    (s.answerAdmitted src tag a).mport = s.mport := rfl
@[simp] theorem State.answerAdmitted_link (s : State) (src : Source) (tag : ReqTag) (a : Answer) :
    (s.answerAdmitted src tag a).link = s.link := rfl
@[simp] theorem State.answerAdmitted_notes (s : State) (src : Source) (tag : ReqTag) (a : Answer) :
    (s.answerAdmitted src tag a).notes = s.notes := rfl
@[simp] theorem State.answerAdmitted_pfwHigh (s : State) (src : Source) (tag : ReqTag) (a : Answer) :
    (s.answerAdmitted src tag a).pfwHigh = s.pfwHigh := rfl
@[simp] theorem State.answerAdmitted_resumeAt (s : State) (src : Source) (tag : ReqTag) (a : Answer) :
    (s.answerAdmitted src tag a).resumeAt = s.resumeAt := rfl
@[simp] theorem State.answerAdmitted_now (s : State) (src : Source) (tag : ReqTag) (a : Answer) :
    (s.answerAdmitted src tag a).now = s.now := rfl
@[simp] theorem State.answerAdmitted_mem (s : State) (src : Source) (tag : ReqTag) (a : Answer) :
    (s.answerAdmitted src tag a).mem = s.mem := rfl
@[simp] theorem State.answerAdmitted_pending (s : State) (src : Source) (tag : ReqTag) (a : Answer) :
    (s.answerAdmitted src tag a).pending = s.pending := rfl

/-! ### The LOG_LOW comparison and allocation -/

@[simp] theorem State.lowCompare_power (s : State) : s.lowCompare.power = s.power := by
  unfold State.lowCompare; split <;> [split; skip] <;> rfl
@[simp] theorem State.allocate_power (s : State) (h : Header) : (s.allocate h).power = s.power :=
  State.lowCompare_power _
@[simp] theorem State.lowCompare_bridge (s : State) : s.lowCompare.bridge = s.bridge := by
  unfold State.lowCompare; split <;> [split; skip] <;> rfl
@[simp] theorem State.allocate_bridge (s : State) (h : Header) : (s.allocate h).bridge = s.bridge :=
  State.lowCompare_bridge _
@[simp] theorem State.lowCompare_start (s : State) : s.lowCompare.start = s.start := by
  unfold State.lowCompare; split <;> [split; skip] <;> rfl
@[simp] theorem State.allocate_start (s : State) (h : Header) : (s.allocate h).start = s.start :=
  State.lowCompare_start _
@[simp] theorem State.lowCompare_regions (s : State) : s.lowCompare.regions = s.regions := by
  unfold State.lowCompare; split <;> [split; skip] <;> rfl
@[simp] theorem State.allocate_regions (s : State) (h : Header) : (s.allocate h).regions = s.regions :=
  State.lowCompare_regions _
@[simp] theorem State.lowCompare_host (s : State) : s.lowCompare.host = s.host := by
  unfold State.lowCompare; split <;> [split; skip] <;> rfl
@[simp] theorem State.allocate_host (s : State) (h : Header) : (s.allocate h).host = s.host :=
  State.lowCompare_host _
@[simp] theorem State.lowCompare_grp (s : State) : s.lowCompare.grp = s.grp := by
  unfold State.lowCompare; split <;> [split; skip] <;> rfl
@[simp] theorem State.allocate_grp (s : State) (h : Header) : (s.allocate h).grp = s.grp :=
  State.lowCompare_grp _
@[simp] theorem State.lowCompare_mport (s : State) : s.lowCompare.mport = s.mport := by
  unfold State.lowCompare; split <;> [split; skip] <;> rfl
@[simp] theorem State.allocate_mport (s : State) (h : Header) : (s.allocate h).mport = s.mport :=
  State.lowCompare_mport _
@[simp] theorem State.lowCompare_link (s : State) : s.lowCompare.link = s.link := by
  unfold State.lowCompare; split <;> [split; skip] <;> rfl
@[simp] theorem State.allocate_link (s : State) (h : Header) : (s.allocate h).link = s.link :=
  State.lowCompare_link _
@[simp] theorem State.lowCompare_pfwHigh (s : State) : s.lowCompare.pfwHigh = s.pfwHigh := by
  unfold State.lowCompare; split <;> [split; skip] <;> rfl
@[simp] theorem State.allocate_pfwHigh (s : State) (h : Header) : (s.allocate h).pfwHigh = s.pfwHigh :=
  State.lowCompare_pfwHigh _
@[simp] theorem State.lowCompare_resumeAt (s : State) : s.lowCompare.resumeAt = s.resumeAt := by
  unfold State.lowCompare; split <;> [split; skip] <;> rfl
@[simp] theorem State.allocate_resumeAt (s : State) (h : Header) : (s.allocate h).resumeAt = s.resumeAt :=
  State.lowCompare_resumeAt _
@[simp] theorem State.lowCompare_now (s : State) : s.lowCompare.now = s.now := by
  unfold State.lowCompare; split <;> [split; skip] <;> rfl
@[simp] theorem State.allocate_now (s : State) (h : Header) : (s.allocate h).now = s.now :=
  State.lowCompare_now _
@[simp] theorem State.lowCompare_mem (s : State) : s.lowCompare.mem = s.mem := by
  unfold State.lowCompare; split <;> [split; skip] <;> rfl
@[simp] theorem State.allocate_mem (s : State) (h : Header) : (s.allocate h).mem = s.mem :=
  State.lowCompare_mem _
@[simp] theorem State.lowCompare_pending (s : State) : s.lowCompare.pending = s.pending := by
  unfold State.lowCompare; split <;> [split; skip] <;> rfl
@[simp] theorem State.allocate_pending (s : State) (h : Header) : (s.allocate h).pending = s.pending :=
  State.lowCompare_pending _
@[simp] theorem State.lowCompare_geometry (s : State) : s.lowCompare.log.geometry = s.log.geometry := by
  unfold State.lowCompare; split <;> [split; skip] <;> rfl
@[simp] theorem State.lowCompare_head (s : State) : s.lowCompare.log.head = s.log.head := by
  unfold State.lowCompare; split <;> [split; skip] <;> rfl
@[simp] theorem State.lowCompare_volatileTail (s : State) : s.lowCompare.log.volatileTail = s.log.volatileTail := by
  unfold State.lowCompare; split <;> [split; skip] <;> rfl
@[simp] theorem State.lowCompare_persistedTail (s : State) : s.lowCompare.log.persistedTail = s.log.persistedTail := by
  unfold State.lowCompare; split <;> [split; skip] <;> rfl
@[simp] theorem State.lowCompare_gen (s : State) : s.lowCompare.log.gen = s.log.gen := by
  unfold State.lowCompare; split <;> [split; skip] <;> rfl
@[simp] theorem State.lowCompare_newest (s : State) : s.lowCompare.log.newest = s.log.newest := by
  unfold State.lowCompare; split <;> [split; skip] <;> rfl
@[simp] theorem State.lowCompare_window (s : State) : s.lowCompare.log.window = s.log.window := by
  unfold State.lowCompare; split <;> [split; skip] <;> rfl
@[simp] theorem State.lowCompare_due (s : State) : s.lowCompare.log.due = s.log.due := by
  unfold State.lowCompare; split <;> [split; skip] <;> rfl
@[simp] theorem State.lowCompare_anchorOp (s : State) : s.lowCompare.log.anchorOp = s.log.anchorOp := by
  unfold State.lowCompare; split <;> [split; skip] <;> rfl
@[simp] theorem State.lowCompare_followUp (s : State) : s.lowCompare.log.followUp = s.log.followUp := by
  unfold State.lowCompare; split <;> [split; skip] <;> rfl
@[simp] theorem State.lowCompare_failures (s : State) : s.lowCompare.log.failures = s.log.failures := by
  unfold State.lowCompare; split <;> [split; skip] <;> rfl

/-! ### Slots and tags -/

theorem State.slot_updSlot (s : State) (i j : SlotNo) (f : GroupSlot → GroupSlot) :
    (s.updSlot i f).slot j = if i = j then f (s.slot i) else s.slot j := by
  unfold State.slot State.updSlot
  by_cases h : i = j
  · subst h; simp
  · simp only [h, if_false]
    exact Vector.getElem_set_ne _ _ (fun hv => h (Fin.ext hv))

@[simp] theorem State.slot_updSlot_self (s : State) (i : SlotNo) (f : GroupSlot → GroupSlot) :
    (s.updSlot i f).slot i = f (s.slot i) := by simp [State.slot_updSlot]

theorem State.tag_setTag (s : State) (i j : MTag) (e : TagEntry) :
    (s.setTag i e).tag j = if i = j then e else s.tag j := by
  unfold State.tag State.setTag
  by_cases h : i = j
  · subst h; simp
  · simp only [h, if_false]
    exact Vector.getElem_set_ne _ _ (fun hv => h (Fin.ext hv))

@[simp] theorem State.tag_setTag_self (s : State) (i : MTag) (e : TagEntry) : (s.setTag i e).tag i = e := by
  simp [State.tag_setTag]

@[simp] theorem State.tag_handOver (s : State) (q : MReq) (t : MTag) : (s.handOver q).tag t = s.tag t := by
  cases h : q.ref.cls <;> simp [State.tag, State.handOver, MPort.setQueue, h]

/-- A slot depends on the group side alone. -/
theorem State.slot_congr {s t : State} (h : t.grp.slots = s.grp.slots) (i : SlotNo) : t.slot i = s.slot i := by
  unfold State.slot; rw [h]

/-- A tag depends on the M-port alone. -/
theorem State.tag_congr {s t : State} (h : t.mport.tags = s.mport.tags) (i : MTag) : t.tag i = s.tag i := by
  unfold State.tag; rw [h]

end Sys2Proof.Machine
end

