-- ==== Sys2Proof/Laws/Outcomes.lean ====
section
/-! SUPPORT. Outcomes: one lemma per shared operation that says once everything it does, in the words of Safety. The proofs
about commands cite these and unfold no operation. -/

namespace Sys2Proof.Machine

/-! ### Answers and data phases -/

theorem State.tag_settle_ne (s : State) (t : MTag) (a : MemAnswer) (i : MTag) (h : i ≠ t) :
    (s.settle t a).tag i = s.tag i := by
  simp only [State.settle, State.tag, State.setTag]
  exact Vector.getElem_set_ne _ _ (fun e => h (Fin.ext e.symm))

theorem State.tag_settle_self (s : State) (t : MTag) (a : MemAnswer) : (s.settle t a).tag t = TagEntry.free := by
  simp only [State.settle, State.tag, State.setTag]
  exact Vector.getElem_set_self _

/-- The state in which a requester takes an answer is the one `AnswerTaken` describes. -/
theorem answerTaken_settle (s : State) (t : MTag) (a : MemAnswer)
    (h : (s.tag t).req.write = true → s.mem.wf = true) : AnswerTaken s ((s.settle t a).countAnswer a) t a := by
  have hm : ∀ x, ((s.tag t).req.storeTo (landedOf a) s.mem).get x =
      if (s.tag t).req.selects x = true ∧ (landedOf a).getLsbD (x - (s.tag t).req.addr) = true
      then (s.tag t).req.data.getD (x - (s.tag t).req.addr) 0 else s.mem.get x := by
    intro x
    by_cases hw : (s.tag t).req.write = true
    · exact MReq.get_storeTo _ _ _ _ (h hw)
    · simp [MReq.storeTo, MReq.selects, hw]
  cases a with
  | done bs => exact ⟨⟨State.tag_settle_self _ _ _, State.tag_settle_ne _ _ _⟩, hm, rfl⟩
  | error x => exact ⟨⟨State.tag_settle_self _ _ _, State.tag_settle_ne _ _ _⟩, hm, rfl⟩

/-- An outstanding request that a row names is settled, and its requester's rule acts. -/
theorem takeAnswer_of_awaits (s : State) (t : MTag) (a : MemAnswer) (wanted : Ref → Bool) (act : State → MReq → State)
    (ho : (s.tag t).state = .outstanding) (hw : wanted (s.tag t).req.ref = true)
    (hd : (s.tag t).req.ref ≠ .dropped) (hp : (s.tag t).req.ref ≠ .preReset) :
    s.takeAnswer t a wanted act = act ((s.settle t a).countAnswer a) (s.tag t).req := by
  simp [State.takeAnswer, ho, hw, hd, hp]

theorem settle_mem_of_read (s : State) (t : MTag) (a : MemAnswer) (h : (s.tag t).req.write = false) :
    ((s.settle t a).countAnswer a).mem = s.mem := by
  cases a <;> simp [State.settle, State.countAnswer, State.setTag, MReq.storeTo, h, isErrorAnswer, State.count]

theorem le_foldl_min (l : List Header) (b n : Nat) :
    n ≤ l.foldl (fun p h => min p h.pos) b ↔ n ≤ b ∧ ∀ h ∈ l, n ≤ h.pos := by
  induction l generalizing b with
  | nil => simp
  | cons h l ih => simp [ih, and_assoc]

/-- A record lies wholly behind the frontier: its end is at or below the head and every record of the window. -/
theorem behindFrontier_iff (s : State) (p n : Nat) :
    s.behindFrontier p n = true ↔ p + n ≤ s.log.head ∧ ∀ h ∈ s.log.window, p + n ≤ h.pos := by
  simp only [State.behindFrontier, State.frontier, decide_eq_true_eq, le_foldl_min]

theorem lineOrder_iff (before : List Inflight) (source : Source) (line : Nat) (w : Bool) :
    lineOrder before source line w = true ↔ InLineOrder before source line w := by
  simp only [lineOrder, InLineOrder, List.all_eq_true]
  refine forall_congr' fun e => forall_congr' fun _ => ?_
  cases e.stage <;> cases w <;> cases e.work.isRead <;> simp [Stage.accessIssued] <;> tauto

theorem anchorActive_iff (s : State) : s.anchorActive = true ↔ ∃ a, s.log.newest = some a ∧ a.state = .active := by
  unfold State.anchorActive
  cases s.log.newest <;> simp

theorem mayBeginData_iff (s : State) (before : List Inflight) (source : Source) (line : Nat) (record : Option RecordSpan) :
    (s.anchorActive = true ∧ (record.map fun r => s.behindFrontier r.pos (beforeSlots r.count)).getD true = true ∧
      lineOrder before source line true = true) ↔ s.MayBeginData before source line record := by
  rw [anchorActive_iff, lineOrder_iff, State.MayBeginData]
  cases record with
  | none => simp
  | some r => simp [behindFrontier_iff]; tauto

theorem dataPhases_promoteList (s : State) (es : List Inflight) : ∀ before before' : List Inflight,
    (∀ source line w, lineOrder before source line w = lineOrder before' source line w) →
    DataPhases s before' es (s.promoteList before es).1 (s.promoteList before es).2 := by
  induction es with
  | nil => exact fun _ _ _ => .nil
  | cons e es ih =>
    intro before before' hb
    have step : ∀ x y : Inflight, (∀ source line w, lineOrder [x] source line w = lineOrder [y] source line w) →
        ∀ source line w, lineOrder (before ++ [x]) source line w = lineOrder (before' ++ [y]) source line w := by
      intro x y hxy source line w
      have h1 := hb source line w
      have h2 := hxy source line w
      simp only [lineOrder, List.all_append] at h1 h2 ⊢
      rw [h1, h2]
    cases hq : s.dataWrite before e with
    | none =>
      simp only [State.promoteList, hq]
      refine .stays (fun line mask data slot record hw hs hm => ?_) (ih _ _ (step e e fun _ _ _ => rfl))
      have hm' := (mayBeginData_iff s before' e.source line record).2 hm
      rw [← hb] at hm'
      simp [State.dataWrite, hw, hs, hm'] at hq
    | some q =>
      simp only [State.promoteList, hq]
      obtain ⟨source, tag, work, stage⟩ := e
      cases work with
      | journaled line mask data slot record =>
        simp only [State.dataWrite] at hq
        split at hq
        · rename_i hc
          obtain ⟨rfl, ha, hr, hl⟩ := hc
          rw [hb] at hl
          cases hq
          exact .begins ((mayBeginData_iff s before' source line record).1 ⟨ha, hr, hl⟩)
            (ih _ _ (step _ _ fun _ _ _ => by simp [lineOrder, Stage.accessIssued]))
        · cases hq
      | _ => simp [State.dataWrite] at hq

theorem foldl_handOver_traffic (qs : List MReq) (s : State) (h : ∀ q ∈ qs, q.ref.cls = .traffic) :
    qs.foldl State.handOver s = { s with mport := { s.mport with trafficQ := s.mport.trafficQ ++ qs } } := by
  induction qs generalizing s with
  | nil => simp
  | cons q qs ih =>
    rw [List.foldl_cons, ih _ fun x hx => h x (List.mem_cons_of_mem _ hx)]
    have hq := h q (by simp)
    simp [State.handOver, hq, MPort.setQueue, MPort.queue]

theorem dataPhases_traffic {s : State} {before es es' : List Inflight} {qs : List MReq}
    (h : DataPhases s before es es' qs) : ∀ q ∈ qs, q.ref.cls = .traffic := by
  induction h with
  | nil => simp
  | begins _ _ ih => simpa [Ref.cls] using ih
  | stays _ _ ih => exact ih

/-- Looking at the conditions of R67 again lets exactly the ready writes begin their data phase. -/
theorem dataPhasesBegin_promote (s : State) : DataPhasesBegin s s.promote := by
  have h := dataPhases_promoteList s s.host.inflight [] [] fun _ _ _ => rfl
  have hp : s.promote = { s with
      host := { s.host with inflight := (s.promoteList [] s.host.inflight).1 }
      mport := { s.mport with trafficQ := s.mport.trafficQ ++ (s.promoteList [] s.host.inflight).2 } } :=
    foldl_handOver_traffic _ _ (dataPhases_traffic h)
  exact ⟨(s.promoteList [] s.host.inflight).2, by rw [hp]; exact h, by rw [hp]⟩

/-! ### The stop of a recovery -/

theorem outstanding_iff (s : State) (p : Ref → Bool) :
    s.outstanding p = true ↔ ∃ t, (s.tag t).state = .outstanding ∧ p (s.tag t).req.ref = true := by
  simp only [State.outstanding, List.any_eq_true, Bool.and_eq_true, decide_eq_true_eq]
  constructor
  · rintro ⟨t, _, h⟩; exact ⟨t, h⟩
  · rintro ⟨t, h⟩; exact ⟨t, by fin_cases t <;> simp [allTags], h⟩

theorem outstanding_congr {s t : State} (h : t.mport.tags = s.mport.tags) (p : Ref → Bool) :
    t.outstanding p = s.outstanding p := by
  have e : t.tag = s.tag := funext fun i => State.tag_congr h i
  unfold State.outstanding
  rw [e]

theorem disown_ofRollback : MReq.disown Ref.ofRollback = MReq.stale := rfl

theorem tagDisown_ofRollback : TagEntry.disown Ref.ofRollback = TagEntry.stale := rfl

/-- RECOVERY_FAILED and the return to GATED. -/
theorem failRecovery_eq (s : State) (d : Detail) (pos : Nat) : s.failRecovery d pos = s.backInGated d pos := by
  simp [State.failRecovery, State.toGated, State.forgetRollback, State.disown, disown_ofRollback, tagDisown_ofRollback,
    State.backInGated, MPort.stale, GroupSide.reset, State.post]

theorem atStopPoint_iff (s : State) :
    s.AtStopPoint ↔ s.log.window = [] ∧ s.outstanding s.awaited = false ∧ s.restoreQueued = false := by
  rw [Bool.eq_false_iff, ne_eq, outstanding_iff]
  simp only [State.AtStopPoint, State.restoreQueued, List.any_eq_false, decide_eq_true_eq]
  constructor
  · rintro ⟨hw, hq, ht⟩
    refine ⟨hw, ?_, hq⟩
    rintro ⟨t, ho, ha⟩
    obtain ⟨h1, h2, h3, h4⟩ := ht t ho
    unfold State.awaited at ha
    split at ha <;> simp_all
    split at ha <;> simp_all
  · rintro ⟨hw, ht, hq⟩
    refine ⟨hw, hq, fun t ho => ?_⟩
    have h : ¬ s.awaited (s.tag t).req.ref = true := fun h => ht ⟨t, ho, h⟩
    refine ⟨fun e => h (by rw [e]; rfl), fun e => h (by rw [e]; rfl), fun c e => h (by rw [e]; rfl), fun w hw hp e => h ?_⟩
    rw [e]; simp [State.awaited, hw, hp]

/-- The stop of a recovery: at its stop point the bridge is back in GATED, and before it nothing changes. -/
theorem stopPointMet_stopCheck (s : State) : StopPointMet s s.stopCheck := by
  have hs : s.stopping = true ↔ ∃ o, s.start = some o ∧ o.stopping = true := by
    unfold State.stopping; cases s.start <;> simp
  unfold StopPointMet State.stopCheck
  rw [atStopPoint_iff, ← hs]
  refine ⟨fun h => ?_, fun h => ?_⟩
  · rw [if_pos h, failRecovery_eq]
  · rw [if_neg h]

/-! ### Anchors and the window -/

/-- The low-water comparison: the flag follows it, and LOG_LOW is posted when it was armed (R24). -/
theorem lowCompare_eq (s : State) : s.lowCompare = { s with
    log := { s.log with lowArmed := decide (¬ s.freeSlots < s.link.policy.lowWater) }
    notes := (if s.freeSlots < s.link.policy.lowWater ∧ s.log.lowArmed = true
      then s.post .logLow Key.zero .none s.freeSlots s.log.head else s).notes } := by
  obtain ⟨power, bridge, start, regions, host, grp, log, mport, link, notes, pfw, resume, now, mem, pending⟩ := s
  obtain ⟨geo, head, vt, pt, gen, newest, window, due, op, fu, failures, low⟩ := log
  unfold State.lowCompare
  by_cases h1 : State.freeSlots ⟨power, bridge, start, regions, host, grp,
    ⟨geo, head, vt, pt, gen, newest, window, due, op, fu, failures, low⟩, mport, link, notes, pfw, resume, now, mem,
    pending⟩ < link.policy.lowWater
  · cases low <;> simp [h1, State.post]
  · simp [h1]

/-- The adoption of an anchor. -/
theorem anchorAdopted_adoptAnchor (s : State) (c : Copy) (a : Anchor) : AnchorAdopted s (s.adoptAnchor c a) c a := by
  unfold AnchorAdopted State.adoptAnchor
  dsimp only
  refine ⟨fun h => if_neg h, fun h => ?_⟩
  rw [if_pos h, lowCompare_eq]
  simp only [State.wake, State.setHolds, decide_eq_true_eq]
  split_ifs with h1 h2 h2
  · rfl
  · exact absurd h1 h2
  · exact absurd h2 h1
  · rfl

theorem wakeWindow_eq (s : State) : s.wakeWindow = s.withPlacePassed := by
  have h : 0 < s.admissionPlaces ↔ s.log.window.length + s.log.due.length < 8 := by
    unfold State.admissionPlaces Config.windowDepth; omega
  unfold State.wakeWindow State.withPlacePassed
  simp only [h]
  split
  · simp only [State.wakeRoom, State.wake, State.setHolds, decide_eq_true_eq]; rfl
  · rfl

/-! ### FAULTED -/

theorem foldl_refuse (hs : List Hold) (s : State) (r : Reason) :
    hs.foldl (fun s h => s.refuse h.req r) s = { s with host := { s.host with
      responses := s.host.responses ++ hs.map fun h => ⟨h.req.source, h.req.tag, .refused r, false⟩ } } := by
  induction hs generalizing s with
  | nil => simp
  | cons h hs ih => rw [List.foldl_cons, ih]; simp [State.refuse, State.respond]

/-- Emptying the hold list refuses every entry, in list order (R87, R88). -/
theorem emptyHolds_eq (s : State) (r : Reason) : s.emptyHolds r = { s with host := { s.host with
    holds := []
    responses := s.host.responses ++ s.host.holds.map fun h => ⟨h.req.source, h.req.tag, .refused r, false⟩ } } := by
  rw [State.emptyHolds, foldl_refuse]; rfl

theorem settleFront_refuse (s : State) (r : Request) (why : Reason) :
    s.settleFront r (.refuse why) = s.takeFront.refuse r why := rfl

/-- The line's owner is being rolled back or waits for it. -/
theorem lineRollingBack_iff (s : State) (line : Nat) : s.lineRollingBack line = true ↔ s.isRollingBack line := by
  unfold State.lineRollingBack State.isRollingBack
  cases s.claimOf line <;> simp

theorem takeFront_refuse_eq (s : State) (r : Request) (why : Reason) (q : Intake) (rest : List Intake)
    (h : s.host.intake = q :: rest) : s.takeFront.refuse r why = s.refusedFront r rest why := by
  simp [State.takeFront, State.refuse, State.respond, State.refusedFront, h]

/-- A READ or WRITE that passes is admitted, or the admission unit pauses with it. -/
theorem settleFront_pass (s : State) (q : Intake) (rest : List Intake) (h : s.host.intake = q :: rest)
    (src : Source) (tag : ReqTag) :
    (∀ a n, s.settleFront ⟨src, tag, .read a n⟩ .pass = s.passedFront rest ⟨src, tag, .passRead a.toNat n, .queued⟩
      ⟨.passRead src tag, false, a.toNat, n, 0, []⟩) ∧
    ∀ l m d g, s.settleFront ⟨src, tag, .write l m d g⟩ .pass = s.passedFront rest
      ⟨src, tag, .passWrite l.toNat m d, .queued⟩
      ⟨.passWrite src tag, true, l.toNat * 64, 64, m.setWidth 96, d⟩ := by
  unfold State.settleFront State.shortage State.passedFront State.inflightRoom Config.inflightDepth
  by_cases hr : s.host.inflight.length < 32
  · simp only [hr, decide_true, if_true]
    refine ⟨fun a n => ?_, fun l m d g => ?_⟩
    · simp [State.takeFront, State.admitRequest, State.admitPassRead, State.enterFlight, State.handOver, Ref.cls,
        MPort.setQueue, MPort.queue, h]
    · simp [State.takeFront, State.admitRequest, State.admitPassWrite, State.enterFlight, State.handOver, Ref.cls,
        MPort.setQueue, MPort.queue, h, lineAddr, Config.lineBytes]
  · simp only [hr, decide_false, if_false]
    exact ⟨fun _ _ => rfl, fun _ _ _ _ => rfl⟩

/-- The bridge has left RUNNING: a pause ends and its request is decided again. -/
theorem pausedRedecided_redecidePaused (s : State) : PausedRedecided s s.redecidePaused := by
  unfold PausedRedecided State.redecidePaused
  refine ⟨?_, ?_⟩
  · rintro (hp | hi)
    · simp [hp]
    · simp [State.decideFront, hi]
  intro src tag body dup rest hp hi
  rw [if_pos (Option.isSome_iff_ne_none.2 hp), State.decideFront, hi]
  dsimp only
  refine ⟨fun hn => ?_, fun a n hs hb => ?_, fun l m d g hs hb => ?_, fun g kind hs hb => ?_⟩
  · rw [if_pos, takeFront_refuse_eq _ _ _ _ _ hi]
    cases dup <;> cases hm : malformed ⟨src, tag, body⟩ <;> simp_all
  all_goals
    subst hb
    rw [if_neg (by simp [hs.1, hs.2])]
    dsimp only
  · have hpass := (settleFront_pass s _ rest hi src tag).1 a n
    have href := fun why => takeFront_refuse_eq s ⟨src, tag, .read a n⟩ why _ _ hi
    have hl := lineRollingBack_iff s (a.toNat / 64)
    refine ⟨fun hb hr => ?_, ?_⟩
    · simp only [State.readVerdict, hb, lineOf, Config.lineBytes, hl.2 hr, if_true, settleFront_refuse, href]
    · rintro (hb | hb | ⟨hb, hr⟩)
      · simp only [State.readVerdict, hb, hpass]
      · simp only [State.readVerdict, hb, hpass]
      · simp only [State.readVerdict, hb, lineOf, Config.lineBytes, hl, hr, if_false, hpass]
  · have hpass := (settleFront_pass s _ rest hi src tag).2 l m d g
    have href := fun why => takeFront_refuse_eq s ⟨src, tag, .write l m d g⟩ why _ _ hi
    have hc : s.classify (lineAddr l.toNat) = s.classify (l.toNat * 64) := rfl
    refine ⟨fun hb => ?_, fun hb => ?_, fun hb => ⟨fun hk => ?_, fun hk => ?_, fun p hk => ?_⟩⟩
    · simp only [State.writeVerdict, hb, settleFront_refuse, href]
    · simp only [State.writeVerdict, hb, settleFront_refuse, href]
    · simp only [State.writeVerdict, hb, hc, hk, hpass]
    · rcases hk with hk | hk <;> simp only [State.writeVerdict, hb, hc, hk, settleFront_refuse, href]
    · simp only [State.writeVerdict, hb, hc, hk, settleFront_refuse, href]
  · have href := fun why => takeFront_refuse_eq s ⟨src, tag, .mark g kind⟩ why _ _ hi
    refine ⟨fun hb => ?_, fun hb => ?_, fun hb => ?_⟩ <;> simp only [State.markVerdict, hb, State.settleMark, href]

/-- The entry to DRAINING (R123). -/
theorem drainEntered_enterDraining (s : State) : DrainEntered s s.enterDraining := by
  unfold DrainEntered State.enterDraining
  simp only [emptyHolds_eq]
  exact pausedRedecided_redecidePaused _

/-- What the redecision of a paused front request in FAULTED may leave: outcomes, in-flight entries and memory accesses of
pass-through requests, and nothing else. -/
structure Redecided (s t : State) : Prop where
  eq : t = { s with
    host := { s.host with
      intake := t.host.intake, paused := t.host.paused, inflight := t.host.inflight, responses := t.host.responses }
    mport := { s.mport with trafficQ := t.mport.trafficQ } }
  inflight : ∃ es, t.host.inflight = s.host.inflight ++ es ∧ ∀ e ∈ es, e.work.slotOf = none

theorem Redecided.refl (s : State) : Redecided s s := ⟨rfl, [], by simp⟩

theorem redecided_takeFront_refuse (s : State) (r : Request) (why : Reason) :
    Redecided s (s.takeFront.refuse r why) :=
  ⟨rfl, [], by simp [State.takeFront, State.refuse, State.respond]⟩

theorem redecided_pauseFor (s : State) (r : Room) : Redecided s (s.pauseFor r) := ⟨rfl, [], by simp [State.pauseFor]⟩

theorem redecided_pass (s : State) (r : Request) : Redecided s (s.settleFront r .pass) := by
  unfold State.settleFront State.shortage
  dsimp only
  split
  · rename_i h
    split at h
    · cases h
    · exact redecided_pauseFor _ _
  · rcases r with ⟨source, tag, body⟩
    cases body with
    | mark g k => exact ⟨rfl, [], by simp [State.takeFront, State.admitRequest]⟩
    | read a n => exact ⟨rfl, _, rfl, by simp [Work.slotOf]⟩
    | write l m d g => exact ⟨rfl, _, rfl, by simp [Work.slotOf]⟩

theorem redecided_decideFront (s : State) (h : s.bridge = .faulted) : Redecided s s.decideFront := by
  unfold State.decideFront
  split
  · exact Redecided.refl s
  · split
    · exact redecided_takeFront_refuse _ _ _
    · split
      · simp only [State.readVerdict, h]; exact redecided_pass _ _
      · simp only [State.writeVerdict, h]
        split
        · exact redecided_pass _ _
        · exact redecided_takeFront_refuse _ _ _
        · exact redecided_takeFront_refuse _ _ _
        · exact redecided_takeFront_refuse _ _ _
      · simp only [State.markVerdict, h, State.settleMark]; exact redecided_takeFront_refuse _ _ _

theorem redecided_redecidePaused (s : State) (h : s.bridge = .faulted) : Redecided s s.redecidePaused := by
  unfold State.redecidePaused
  split
  · exact redecided_decideFront s h
  · exact Redecided.refl s

/-- A journaled write whose data phase has not begun is answered at the fault entry. -/
abbrev Inflight.cut (e : Inflight) : Prop := e.work.slotOf.isSome = true ∧ e.stage.beforeData = true

/-- Answering the live entries of a source and tag, then those of a set of them. -/
theorem done_of_isLive (x : Inflight) (source : Source) (tag : ReqTag) (p : Source → ReqTag → Prop)
    [∀ a b, Decidable (p a b)] :
    (let y := if x.isLive source tag then { x with stage := .done } else x
     if p y.source y.tag then { y with stage := .done } else y) =
      if (source = x.source ∧ tag = x.tag) ∨ p x.source x.tag then { x with stage := .done } else x := by
  dsimp only
  have h : x.isLive source tag = true ↔ (source = x.source ∧ tag = x.tag) ∧ x.stage ≠ .done := by
    simp only [Inflight.isLive, Bool.and_eq_true, decide_eq_true_eq]
    exact ⟨fun ⟨⟨a, b⟩, c⟩ => ⟨⟨a.symm, b.symm⟩, c⟩, fun ⟨⟨a, b⟩, c⟩ => ⟨⟨a.symm, b.symm⟩, c⟩⟩
  by_cases hl : x.isLive source tag = true
  · rw [if_pos hl, if_pos (Or.inl (h.1 hl).1)]
    split_ifs <;> rfl
  · rw [if_neg hl]
    by_cases hd : x.stage = .done
    · obtain ⟨a, b, c, d⟩ := x
      simp only at hd
      subst hd
      split_ifs <;> rfl
    · have : ¬ (source = x.source ∧ tag = x.tag) := fun e => hl (h.2 ⟨e, hd⟩)
      simp [this]

theorem foldl_answerFaulted (l : List Inflight) (s : State) (h : s.bridge = .faulted) :
    ∃ slots : Vector GroupSlot 4, l.foldl State.answerFaulted s = { s with
        host := { s.host with
          inflight := s.host.inflight.map fun e =>
            if ∃ x ∈ l, x.cut ∧ x.source = e.source ∧ x.tag = e.tag then { e with stage := .done } else e
          responses := s.host.responses ++ (l.filter fun e => decide e.cut).map fun e =>
            ⟨e.source, e.tag, .failed .faulted, true⟩ }
        grp := { s.grp with slots := slots } } ∧
      ∀ i : SlotNo, slots[i] = { s.slot i with inflight := (s.slot i).inflight -
        (l.filter fun e => decide (e.work.slotOf = some i ∧ e.stage.beforeData = true)).length } := by
  induction l generalizing s with
  | nil => exact ⟨s.grp.slots, by simp, fun i => by simp [State.slot]⟩
  | cons e l ih =>
    rw [List.foldl_cons]
    by_cases hc : e.cut
    · obtain ⟨source, tag, work, stage⟩ := e
      cases work with
      | journaled line mask data j record =>
        have hb : stage.beforeData = true := hc.2
        have hs : s.answerFaulted ⟨source, tag, .journaled line mask data j record, stage⟩ =
            (s.answerAdmitted source tag (.failed .faulted)).updSlot j fun g => { g with inflight := g.inflight - 1 } := by
          simp only [State.answerFaulted, hb, if_true, State.answerWrite, State.closingStep]
          rw [if_pos]
          right
          simpa [State.answerAdmitted, State.setStage, State.respond] using h
        rw [hs]
        obtain ⟨slots, he, hi⟩ := ih _ (show ((s.answerAdmitted source tag (.failed .faulted)).updSlot j fun g =>
          { g with inflight := g.inflight - 1 }).bridge = .faulted from h)
        refine ⟨slots, ?_, ?_⟩
        · rw [he]
          simp only [State.updSlot, State.answerAdmitted, State.setStage, State.respond, List.map_map]
          congr 2
          · refine List.map_congr_left fun x _ => ?_
            refine (done_of_isLive x source tag fun a b => ∃ z ∈ l, z.cut ∧ z.source = a ∧ z.tag = b).trans
              (if_congr ⟨?_, ?_⟩ rfl rfl)
            · rintro (⟨a, b⟩ | ⟨z, hz, h⟩)
              · exact ⟨_, List.mem_cons_self, hc, a, b⟩
              · exact ⟨z, List.mem_cons_of_mem _ hz, h⟩
            · rintro ⟨z, hz, h⟩
              rcases List.mem_cons.1 hz with rfl | hz
              · exact .inl h.2
              · exact .inr ⟨z, hz, h⟩
          · simp [hc]
        · intro i
          rw [hi i]
          rw [State.slot_updSlot]
          by_cases hij : i = j
          · subst hij; simp [hb, Work.slotOf, State.slot, State.answerAdmitted, State.setStage, State.respond]; omega
          · simp [Ne.symm hij, Work.slotOf, State.slot, State.answerAdmitted, State.setStage, State.respond]
      | _ => simp [Inflight.cut, Work.slotOf] at hc
    · have hs : s.answerFaulted e = s := by
        unfold State.answerFaulted
        split
        · rename_i hw
          rw [if_neg]
          intro hb
          exact hc ⟨by simp [hw, Work.slotOf], hb⟩
        all_goals rfl
      rw [hs]
      obtain ⟨slots, he, hi⟩ := ih s h
      refine ⟨slots, ?_, ?_⟩
      · rw [he]
        simp [hc]
      · intro i
        rw [hi i]
        have : ¬ (e.work.slotOf = some i ∧ e.stage.beforeData = true) := fun ⟨a, b⟩ => hc ⟨by simp [a], b⟩
        simp [this]

/-- The response a slot's waiter is given at the fault entry (R145). -/
abbrev faultedWaiter (w : Waiter) : Response := ⟨w.source, w.tag, .failed .faulted, true⟩

theorem foldl_answerWaiter (l : List SlotNo) (s : State) (hl : l.Nodup) :
    ∃ slots : Vector GroupSlot 4, l.foldl (fun s i => s.answerWaiter i fun _ => .failed .faulted) s = { s with
        host := { s.host with
          inflight := s.host.inflight.map fun e =>
            if ∃ i ∈ l, ∃ w, (s.slot i).waiter = some w ∧ w.source = e.source ∧ w.tag = e.tag
            then { e with stage := .done } else e
          responses := s.host.responses ++ l.filterMap fun i => (s.slot i).waiter.map faultedWaiter }
        grp := { s.grp with slots := slots } } ∧
      ∀ i : SlotNo, slots[i] = if i ∈ l then { s.slot i with waiter := none } else s.slot i := by
  induction l generalizing s with
  | nil => exact ⟨s.grp.slots, by simp, fun i => by simp [State.slot]⟩
  | cons j l ih =>
    obtain ⟨hj, hn⟩ := List.nodup_cons.1 hl
    rw [List.foldl_cons]
    cases hw : (s.slot j).waiter with
    | none =>
      have hs : (s.answerWaiter j fun _ => .failed .faulted) = s := by simp [State.answerWaiter, hw]
      rw [hs]
      obtain ⟨slots, he, hi⟩ := ih s hn
      refine ⟨slots, ?_, fun i => ?_⟩
      · rw [he]; simp [hw]
      · rw [hi i]
        by_cases hij : i = j
        · subst hij
          have : s.slot i = { s.slot i with waiter := none } := by rw [← hw]
          simp [hj, ← this]
        · simp [hij]
    | some w =>
      have hs : (s.answerWaiter j fun _ => .failed .faulted) =
          (s.updSlot j fun g => { g with waiter := none }).answerAdmitted w.source w.tag (.failed .faulted) := by
        simp [State.answerWaiter, hw]
      rw [hs]
      obtain ⟨slots, he, hi⟩ := ih ((s.updSlot j fun g => { g with waiter := none }).answerAdmitted w.source w.tag
        (.failed .faulted)) hn
      have hslot : ∀ i, (((s.updSlot j fun g => { g with waiter := none }).answerAdmitted w.source w.tag
          (.failed .faulted)).slot i) = if i = j then { s.slot j with waiter := none } else s.slot i := fun i =>
        (State.slot_updSlot s j i fun g => { g with waiter := none }).trans (if_congr eq_comm rfl rfl)
      have hne : ∀ i ∈ l, i ≠ j := fun i hi e => hj (e ▸ hi)
      refine ⟨slots, ?_, fun i => ?_⟩
      · rw [he]
        simp only [hslot]
        simp only [State.updSlot, State.answerAdmitted, State.setStage, State.respond, List.map_map]
        congr 2
        · refine List.map_congr_left fun x _ => ?_
          refine (done_of_isLive x w.source w.tag fun a b => ∃ i ∈ l, ∃ v,
            (if i = j then { s.slot j with waiter := none } else s.slot i).waiter = some v ∧ v.source = a ∧ v.tag = b).trans
            (if_congr ⟨?_, ?_⟩ rfl rfl)
          · rintro (⟨a, b⟩ | ⟨i, hi, v, hv, h⟩)
            · exact ⟨j, List.mem_cons_self, w, hw, a, b⟩
            · rw [if_neg (hne i hi)] at hv
              exact ⟨i, List.mem_cons_of_mem _ hi, v, hv, h⟩
          · rintro ⟨i, hi, v, hv, h⟩
            rcases List.mem_cons.1 hi with rfl | hi
            · rw [hw] at hv; cases hv; exact .inl h
            · exact .inr ⟨i, hi, v, by rw [if_neg (hne i hi)]; exact hv, h⟩
        · rw [List.filterMap_cons, hw]
          simp only [Option.map_some, List.append_assoc, List.singleton_append]
          congr 2
          exact List.filterMap_congr fun i hi => by rw [if_neg (hne i hi)]
      · rw [hi i, hslot]
        by_cases hij : i = j
        · subst hij; simp [hj]
        · simp [hij]

theorem failRelease_eq (s : State) : s.failRelease = { s with link :=
    match s.link.state with
    | .executing c _ => if c = 0x0D then { s.link with state := .idle, buffer := .answer .memError [] } else s.link
    | .idle => s.link } := by
  unfold State.failRelease releaseCode
  cases h : s.link.state with
  | idle => rfl
  | executing c ps => by_cases hc : c = 0x0D <;> simp [hc, State.answerLink]

theorem filter_cut_append (l es : List Inflight) (h : ∀ e ∈ es, e.work.slotOf = none) :
    ((l ++ es).filter fun e => decide e.cut) = l.filter fun e => decide e.cut := by
  have : (es.filter fun e => decide e.cut) = [] := by
    rw [List.filter_eq_nil_iff]; intro e he; simp [h e he]
  rw [List.filter_append, this, List.append_nil]

theorem filter_slotOf_append (l es : List Inflight) (i : SlotNo) (h : ∀ e ∈ es, e.work.slotOf = none) :
    ((l ++ es).filter fun e => decide (e.work.slotOf = some i ∧ e.stage.beforeData = true)) =
      l.filter fun e => decide (e.work.slotOf = some i ∧ e.stage.beforeData = true) := by
  have : (es.filter fun e => decide (e.work.slotOf = some i ∧ e.stage.beforeData = true)) = [] := by
    rw [List.filter_eq_nil_iff]; intro e he; simp [h e he]
  rw [List.filter_append, this, List.append_nil]

/-- The answers of the fault entry, in a state where the held requests and the paused one have theirs. -/
theorem answerAll_faulted (t : State) (h : t.bridge = .faulted) :
    ∃ slots : Vector GroupSlot 4,
      allSlots.foldl (fun s i => s.answerWaiter i fun _ => .failed .faulted)
        ((t.withdraw Ref.cutByFault).host.inflight.foldl State.answerFaulted (t.withdraw Ref.cutByFault)) =
      { t with
        host := { t.host with
          inflight := t.host.inflight.map fun e =>
            if (∃ x ∈ t.host.inflight, x.cut ∧ x.source = e.source ∧ x.tag = e.tag) ∨
              ∃ i w, (t.slot i).waiter = some w ∧ w.source = e.source ∧ w.tag = e.tag
            then { e with stage := .done } else e
          responses := t.host.responses ++ ((t.host.inflight.filter fun e => decide e.cut).map fun e =>
            ⟨e.source, e.tag, .failed .faulted, true⟩) ++ allSlots.filterMap fun i => (t.slot i).waiter.map faultedWaiter }
        grp := { t.grp with slots := slots }
        mport := (t.withdraw Ref.cutByFault).mport } ∧
      ∀ i : SlotNo, slots[i] = { t.slot i with
        waiter := none
        inflight := (t.slot i).inflight -
          (t.host.inflight.filter fun e => decide (e.work.slotOf = some i ∧ e.stage.beforeData = true)).length } := by
  obtain ⟨slots1, hv, hi1⟩ := foldl_answerFaulted t.host.inflight (t.withdraw Ref.cutByFault) h
  obtain ⟨slots2, hw, hi2⟩ := foldl_answerWaiter allSlots
    (t.host.inflight.foldl State.answerFaulted (t.withdraw Ref.cutByFault)) (by decide)
  have hslot : ∀ i, (t.host.inflight.foldl State.answerFaulted (t.withdraw Ref.cutByFault)).slot i = { t.slot i with
      inflight := (t.slot i).inflight -
        (t.host.inflight.filter fun e => decide (e.work.slotOf = some i ∧ e.stage.beforeData = true)).length } := by
    intro i
    have h1 : (t.host.inflight.foldl State.answerFaulted (t.withdraw Ref.cutByFault)).slot i = slots1[i] := by rw [hv]; rfl
    rw [h1, hi1 i]; rfl
  have hwaiter : ∀ i, ((t.host.inflight.foldl State.answerFaulted (t.withdraw Ref.cutByFault)).slot i).waiter =
      (t.slot i).waiter := fun i => by rw [hslot]
  have hmem : ∀ i : SlotNo, i ∈ allSlots := by decide
  refine ⟨slots2, ?_, fun i => ?_⟩
  · rw [State.withdraw_host, hw]
    simp only [hwaiter]
    rw [hv]
    simp only [State.withdraw, List.map_map]
    congr 2
    refine List.map_congr_left fun x _ => ?_
    simp only [Function.comp]
    by_cases h1 : ∃ y ∈ t.host.inflight, y.cut ∧ y.source = x.source ∧ y.tag = x.tag
    · simp only [h1, if_true, true_or]; split_ifs <;> rfl
    · simp only [h1, if_false, false_or]
      refine if_congr ⟨?_, ?_⟩ rfl rfl
      · rintro ⟨i, _, w, h⟩; exact ⟨i, w, h⟩
      · rintro ⟨i, w, h⟩; exact ⟨i, hmem i, w, h⟩
  · rw [hi2 i, if_pos (hmem i), hslot]

theorem Inflight.cut_of_uncommitted {e : Inflight} (h : e.uncommitted) : e.cut := by
  obtain ⟨⟨l, m, d, i, r, hw⟩, hs⟩ := h
  exact ⟨by rw [hw]; rfl, by rcases hs with h | h | h | h <;> rw [h] <;> rfl⟩

/-- The fault entry (R145). -/
theorem enterFaulted_cases (s : State) (d : Detail) (pos : Nat) : EnteredFaulted s (s.enterFaulted d pos) d pos ∧
    (s.enterFaulted d pos).notes = (s.post .logFaulted Key.zero d 0 pos).notes := by
  obtain ⟨t1, ht1⟩ : ∃ t1 : State, t1 = { s with
      bridge := .faulted, start := none, resumeAt := none
      notes := (s.post .logFaulted Key.zero d 0 pos).notes
      host := { s.host with
        holds := []
        responses := s.host.responses ++ s.host.holds.map fun h => ⟨h.req.source, h.req.tag, .refused .faulted, false⟩ } } :=
    ⟨_, rfl⟩
  have hb1 : t1.bridge = .faulted := by rw [ht1]
  have R := redecided_redecidePaused t1 hb1
  have P := pausedRedecided_redecidePaused t1
  obtain ⟨t2, ht2⟩ : ∃ t2, t2 = t1.redecidePaused := ⟨_, rfl⟩
  rw [← ht2] at R P
  obtain ⟨slots, hw, hslots⟩ := answerAll_faulted t2 (by rw [R.eq]; exact hb1)
  obtain ⟨w, hwd⟩ : ∃ w, w = allSlots.foldl (fun s i => s.answerWaiter i fun _ => .failed .faulted)
        ((t2.withdraw Ref.cutByFault).host.inflight.foldl State.answerFaulted (t2.withdraw Ref.cutByFault)) := ⟨_, rfl⟩
  rw [← hwd] at hw
  have hz : s.enterFaulted d pos = w.clearIdle.dropRetry.failRelease := by
    rw [hwd, ht2, ht1]; unfold State.enterFaulted; simp only [emptyHolds_eq]; rfl
  clear hwd
  rw [failRelease_eq] at hz
  obtain ⟨z, hzd⟩ : ∃ z, z = s.enterFaulted d pos := ⟨_, rfl⟩
  rw [← hzd] at hz ⊢
  clear hzd
  obtain ⟨es, hes, hno⟩ := R.inflight
  have hgrp : t2.grp = s.grp := by rw [R.eq, ht1]
  have hlog : t2.log = s.log := by rw [R.eq, ht1]
  have hlink : t2.link = s.link := by rw [R.eq, ht1]
  have hslot2 : ∀ i, t2.slot i = s.slot i := fun i => by unfold State.slot; rw [hgrp]
  have hlogQ : t2.mport.logQ = s.mport.logQ := by rw [R.eq, ht1]
  have hrbQ : t2.mport.rollbackQ = s.mport.rollbackQ := by rw [R.eq, ht1]
  have htags : t2.mport.tags = s.mport.tags := by rw [R.eq, ht1]
  have hlast : t2.mport.last = s.mport.last := by rw [R.eq, ht1]
  have hin1 : t1.host.inflight = s.host.inflight := by rw [ht1]
  have hholds : t2.host.holds = [] := by rw [R.eq, ht1]
  rw [hin1] at hes
  have hzhost : z.host = w.host := by rw [hz]; rfl
  have hzport : z.mport = (t2.withdraw Ref.cutByFault).mport := by rw [hz, hw]; rfl
  have hslot : ∀ i, z.slot i = { slots[i] with idle := none } := by
    intro i; rw [hz, hw]; simp [State.slot, State.dropRetry, State.clearIdle]
  have hn : z.notes = (s.post .logFaulted Key.zero d 0 pos).notes := by
    rw [hz, hw]; show t2.notes = _; rw [R.eq, ht1]
  refine ⟨⟨?_, ?_, ?_, ?_, ?_, ?_, ?_, ?_, ?_, ?_, ?_, ?_, ?_, ?_⟩, hn⟩
  · rw [hz, hw]; show t2.bridge = _; rw [R.eq, ht1]
  · rw [hz, hw]; show t2.start = _; rw [R.eq, ht1]
  · rw [hz, hw]; show t2.resumeAt = _; rw [R.eq, ht1]
  · rw [hzhost, hw]; exact hholds
  · refine ⟨t2, ?_, ?_, ?_, ?_, ?_, ?_⟩
    · rw [hn, ← ht1]; exact P
    · rw [hzhost, hw]
    · rw [hzhost, hw]
    · rw [hzhost, hw]
      show t2.host.responses ++ _ ++ _ = _
      rw [hes, filter_cut_append _ _ hno]
      simp only [hslot2]
    · rw [hzhost, hw]
      show t2.host.inflight.map _ = _
      refine List.map_congr_left fun x _ => if_congr ?_ rfl rfl
      simp only [hslot2]
      refine or_congr ⟨?_, ?_⟩ Iff.rfl
      · rintro ⟨y, hy, ⟨h1, h2⟩, h3, h4⟩
        rw [hes] at hy
        rcases List.mem_append.1 hy with hy | hy
        · exact ⟨y, hy, h1, h2, h3, h4⟩
        · rw [hno y hy] at h1; cases h1
      · rintro ⟨y, hy, h1, h2, h3, h4⟩
        exact ⟨y, by rw [hes]; exact List.mem_append_left _ hy, ⟨h1, h2⟩, h3, h4⟩
    · intro c
      rw [hzport]
      cases c <;> rfl
  · intro e he hun
    rw [hzhost, hw] at he
    obtain ⟨x, hx, rfl⟩ := List.mem_map.1 he
    by_cases hc : (∃ y ∈ t2.host.inflight, y.cut ∧ y.source = x.source ∧ y.tag = x.tag) ∨
        ∃ i w, (t2.slot i).waiter = some w ∧ w.source = x.source ∧ w.tag = x.tag
    · rw [if_pos hc] at hun
      obtain ⟨_, h | h | h | h⟩ := hun <;> cases h
    · rw [if_neg hc] at hun
      exact hc (.inl ⟨x, hx, Inflight.cut_of_uncommitted hun, rfl, rfl⟩)
  · intro i
    rw [hslot, hslots i, hslot2, hes, filter_slotOf_append _ _ _ hno]
  · rw [hz, hw]
    simp only [State.dropRetry, State.clearIdle, hgrp]
  · rw [hz, hw]
    simp only [State.dropRetry, State.clearIdle, hlog] <;> rfl
  · intro c q hq
    rw [hzport] at hq
    cases c <;> simp only [MPort.queue, State.withdraw, List.mem_filter] at hq <;> simpa using hq.2
  · intro ps h
    rw [hz, hw]
    simp [State.dropRetry, State.clearIdle, hlink, h]
  · intro h
    rw [hz, hw]
    simp only [State.dropRetry, State.clearIdle, hlink]
    cases hs : s.link.state with
    | idle => rfl
    | executing c ps =>
      simp only []
      rw [if_neg]; rintro rfl; exact h ps hs
  · rw [hn]
    simp only [State.post, placeNotice]
    split <;> simp
  · rw [hz, hw]
    simp only [State.dropRetry, State.clearIdle, State.withdraw, hlogQ, hrbQ, htags, hlast]
    rw [R.eq, ht1]

/-- A held entry marked under a condition. -/
theorem mark_if (h : Hold) (b : Bool) : (if b = true then { h with marked := true } else h) =
    { h with marked := h.marked || b } := by
  cases b <;> simp

/-! ### The walk -/

theorem claimedLines_contains (s : State) (i : SlotNo) (l : Nat) :
    (s.claimedLines i).contains l = s.grp.claims.any fun x => decide (x.owner = i) && decide (x.line = l) := by
  rw [Bool.eq_iff_iff]
  simp only [State.claimedLines, List.contains_iff_mem, List.mem_map, List.mem_filter, List.any_eq_true,
    decide_eq_true_eq, Bool.and_eq_true]
  exact ⟨fun ⟨c, ⟨hc, ho⟩, hl⟩ => ⟨c, hc, ho, hl⟩, fun ⟨c, hc, ho, hl⟩ => ⟨c, ⟨hc, ho⟩, hl⟩⟩

/-- An answered waiter leaves its slot, and its entry is done. -/
theorem answerWaiter_eq (s : State) (i : SlotNo) (a : Waiter → Answer) : s.answerWaiter i a = { s with
    grp := { s.grp with slots := s.grp.slots.set i { s.slot i with waiter := none } }
    host := { s.host with
      inflight := s.host.inflight.map fun e =>
        if ∃ w, (s.slot i).waiter = some w ∧ e.source = w.source ∧ e.tag = w.tag then { e with stage := .done } else e
      responses := s.host.responses ++ ((s.slot i).waiter.map fun w => ⟨w.source, w.tag, a w, true⟩).toList } } := by
  unfold State.answerWaiter
  cases hw : (s.slot i).waiter with
  | none =>
    have h1 : ({ s.slot i with waiter := none } : GroupSlot) = s.slot i := by rw [← hw]
    have h2 : s.grp.slots.set i (s.slot i) = s.grp.slots := by
      simp only [State.slot]; exact Vector.set_getElem_self _
    simp [h1, h2]
  | some w =>
    simp only [State.answerAdmitted, State.setStage, State.respond, State.updSlot, State.slot]
    congr 2
    refine List.map_congr_left fun x _ => ?_
    have h := done_of_isLive x w.source w.tag fun _ _ => False
    simp only [if_false, or_false] at h
    rw [h]
    refine if_congr ⟨fun ⟨a, b⟩ => ⟨w, rfl, a.symm, b.symm⟩, ?_⟩ rfl rfl
    rintro ⟨v, hv, a, b⟩
    cases hv
    exact ⟨a.symm, b.symm⟩

theorem wakeReads_eq (s u : State) (i : SlotNo) : s.wakeReads (u.claimedLines i) = { s with host := { s.host with
    holds := s.host.holds.map fun h =>
      match h.reason with
      | .rollbackRead l => { h with
        marked := h.marked || u.grp.claims.any fun x => decide (x.owner = i) && decide (x.line = l) }
      | .order _ _ | .groupSlot | .line _ | .claimSpace | .logSpace => h } } := by
  refine congrArg s.setHolds (List.map_congr_left fun h _ => (mark_if h _).trans ?_)
  obtain ⟨req, reason, deadline, room, marked⟩ := h
  cases reason <;> simp only [claimedLines_contains, Bool.or_false]

/-- A walk fails (R105), and in RECOVERING the bridge enters FAULTED (R143). -/
theorem walkFail_cases (s : State) (w : Walk) (pos : Nat) (d : Detail) :
    ∃ v, WalkFails s v w d pos ∧ s.walkFail w pos d = if s.bridge = .recovering then v.faultRecovery d pos else v := by
  have ht : ((s.updSlot w.slot fun g => { g with state := .broken }).answerWaiter w.slot fun _ => .failed .broken) =
      { s with
        grp := { s.grp with slots := s.grp.slots.set w.slot { s.slot w.slot with state := .broken, waiter := none } }
        host := { s.host with
          inflight := s.host.inflight.map fun e =>
            if ∃ x, (s.slot w.slot).waiter = some x ∧ e.source = x.source ∧ e.tag = x.tag
            then { e with stage := .done } else e
          responses := s.host.responses ++
            ((s.slot w.slot).waiter.map fun x => ⟨x.source, x.tag, .failed .broken, true⟩).toList } } := by
    rw [answerWaiter_eq]
    simp only [State.slot_updSlot_self]
    simp [State.updSlot, State.slot]
  refine ⟨_, ?_, rfl⟩
  unfold WalkFails
  rw [ht, wakeReads_eq]
  generalize hu : State.withdraw _ _ = u
  rw [outstanding_congr (s := s) (t := u) (by rw [← hu]; rfl)]
  simp only [← outstanding_iff]
  rw [← hu]
  rfl

/-- A notice posted before the fault entry is the only trace of its posting. -/
theorem EnteredFaulted.of_post {s t : State} {k : NoticeKind} {key : Key} {e d : Detail} {n p pos : Nat}
    (h : EnteredFaulted (s.post k key e n p) t d pos) : EnteredFaulted s t d pos := by
  obtain ⟨h1, h2, h3, h4, h5, h6, h7, h8, h9, h10, h11, h12, h13, h14⟩ := h
  exact ⟨h1, h2, h3, h4, h5, h6, h7, h8, h9, h10, h11, h12, h13, h14⟩

/-- A walk fails, in the words of Safety. -/
theorem walkEndsBroken_walkFail (s : State) (w : Walk) (pos : Nat) (d : Detail) :
    WalkEndsBroken s (s.walkFail w pos d) w d pos := by
  obtain ⟨v, hv, he⟩ := walkFail_cases s w pos d
  rw [he]
  refine ⟨fun h => by rw [if_neg h]; exact hv, fun h => ⟨v, hv, ?_⟩⟩
  rw [if_pos h]
  have E := enterFaulted_cases (v.post .recoveryFailed Key.zero d 0 pos) .recovery pos
  exact ⟨E.1.of_post, E.2⟩

/-- The engine of a failed walk. -/
theorem engineEnds_endWalk (s : State) : EngineEnds s s.endWalk := by
  unfold EngineEnds State.endWalk
  dsimp only
  simp only [← outstanding_iff s Ref.ofRollback]
  refine ⟨fun h => by rw [if_pos h], fun h => by rw [if_neg h]; rfl⟩

/-- The tests of R100, as one condition. -/
abbrev State.walkPasses (s : State) (w : Walk) (bytes : List Byte) : Prop :=
  let h := RawHeader.parse bytes
  h.checkPasses bytes = true ∧ (h.kind = 1 ∨ h.kind = 2) ∧ Key.ofByte h.keyByte = (s.slot w.slot).key ∧
    h.pos = w.pos % 2 ^ 64 ∧ h.gen = s.log.gen ∧
    (1 ≤ h.count ∧ h.count ≤ 64 ∧ h.first + h.count ≤ 64 ∧ h.slots = if h.count ≤ 32 then 2 else 3) ∧
    (if w.pos = (s.slot w.slot).first then h.back = 0 else h.back ≠ 0 ∧ (s.slot w.slot).first + h.back ≤ w.pos)

theorem spanFits_iff (h : RawHeader) : h.spanFits = true ↔
    1 ≤ h.count ∧ h.count ≤ 64 ∧ h.first + h.count ≤ 64 ∧ h.slots = if h.count ≤ 32 then 2 else 3 := by
  unfold RawHeader.spanFits beforeSlots
  rw [Bool.and_eq_true, Bool.and_eq_true, Bool.and_eq_true, decide_eq_true_eq, decide_eq_true_eq, decide_eq_true_eq,
    decide_eq_true_eq]
  tauto

/-- The tests of R100: their order decides between CHECK and MISMATCH. -/
theorem walkTest_cases (s : State) (w : Walk) (bytes : List Byte) :
    ((RawHeader.parse bytes).checkPasses bytes = false → s.walkTest w bytes = some .check) ∧
    (s.walkPasses w bytes → s.walkTest w bytes = none) ∧
    ((RawHeader.parse bytes).checkPasses bytes = true → ¬ s.walkPasses w bytes → s.walkTest w bytes = some .mismatch) := by
  have hf := spanFits_iff (RawHeader.parse bytes)
  have hk : ((RawHeader.parse bytes).kind ≠ RecKind.before.code ∧ (RawHeader.parse bytes).kind ≠ RecKind.void.code) ↔
      ¬ ((RawHeader.parse bytes).kind = 1 ∨ (RawHeader.parse bytes).kind = 2) := not_or.symm
  unfold State.walkTest State.walkPasses
  dsimp only
  refine ⟨fun h => if_pos h, ?_, ?_⟩
  · rintro ⟨h1, h2, h3, h4, h5, h6, h7⟩
    rw [if_neg (by rw [h1]; decide), if_neg (by rw [hk]; exact not_not.2 h2), if_neg (not_not.2 h3), if_neg (not_not.2 h4), if_neg (not_not.2 h5),
      if_neg (by rw [hf.2 h6]; decide)]
    split_ifs at h7 ⊢ <;> simp_all
  · intro h1 hp
    rw [if_neg (by rw [h1]; decide)]
    split_ifs with h2 h3 h4 h5 h6 h7 h8 h9 <;> try rfl
    all_goals
      refine absurd ⟨h1, not_not.1 (hk.not.1 h2), not_not.1 h3, not_not.1 h4, not_not.1 h5, hf.1 (by simpa using h6), ?_⟩ hp
      first
        | rw [if_pos h7]; exact h8
        | rw [if_neg h7]; assumption

/-- The record at a walk position is considered. -/
theorem recordConsidered_considerRecord (s : State) (w : Walk) (bytes : List Byte) :
    RecordConsidered s (s.considerRecord w bytes) w bytes := by
  obtain ⟨ht1, ht2, ht3⟩ := walkTest_cases s w bytes
  unfold RecordConsidered
  refine ⟨fun hp hk => ?_, fun hp hk => ?_, fun hc => ?_, fun hc hp => ?_⟩
  · have ht := ht2 hp
    unfold State.considerRecord
    simp only [ht, hk, RecKind.code]
    refine ⟨fun hb => ?_, fun hb hd => ?_⟩
    · simp only [hb, if_true]; rfl
    · simp only [hb, hd, or_self, if_false]
      simp [State.handWalkRead, State.handRestore, State.setWalk, State.handOver, Ref.cls, MPort.setQueue, MPort.queue,
        Geometry.readLen, lineAddr, Config.lineBytes, RawHeader.payload, State.geo]
  · have ht := ht2 hp
    unfold State.considerRecord
    simp only [ht, hk, RecKind.code]
    refine ⟨fun hb => ?_, fun hb hd => ?_, fun hb hd => ?_⟩
    · simp [hb, State.walkComplete, State.requestClosing, State.setWalk]
    · simp [hb, State.walkTo, hd, State.setWalk]
    · simp only [hb, State.walkTo, hd, if_false, if_true]; rfl
  · have ht := ht1 hc
    unfold State.considerRecord
    simp only [ht]
    exact walkEndsBroken_walkFail _ _ _ _
  · have ht := ht3 hc hp
    unfold State.considerRecord
    simp only [ht]
    exact walkEndsBroken_walkFail _ _ _ _

/-- A walk takes up a record. -/
theorem recordTakenUp_takeUp (s : State) (w : Walk) (pos : Nat) : RecordTakenUp s (s.takeUp w pos) w pos := by
  unfold RecordTakenUp State.takeUp
  refine ⟨fun h => ?_, fun h => ?_, fun bytes h => ?_, fun h => ?_⟩ <;> simp only [h]
  · rfl
  · simp [State.setWalk]
  · exact recordConsidered_considerRecord _ _ _
  · exact walkEndsBroken_walkFail _ _ _ _

/-! ### Records and closings -/

/-- A record write is answered DONE and its record is durable. -/
theorem recordDurable_makeDurable (s : State) (t : MTag) (h : Header) (hm : (s.tag t).req.write = true → s.mem.wf = true) :
    RecordDurable s (((s.settle t (.done [])).countAnswer (.done [])).makeDurable h) t h := by
  obtain ⟨⟨hf, hn⟩, hmem, hm⟩ := answerTaken_settle s t (.done []) hm
  generalize (s.settle t (.done [])).countAnswer (.done []) = m at hf hn hmem hm
  have ho : ∀ u : State, u.host.inflight = s.host.inflight → u.ownerOf h.pos = s.ownerOf h.pos := fun u hu => by
    unfold State.ownerOf; rw [hu]
  have hcore : m.makeDurable h = { m with
      log := { m.log with window := m.log.window.filter fun r => decide (r.pos ≠ h.pos) }
      notes := { m.notes with counters := { m.notes.counters with
        records := min (m.notes.counters.records + 1) 4294967295
        loggedBytes := if h.kind = .before then min (m.notes.counters.loggedBytes + h.count) 4294967295
          else m.notes.counters.loggedBytes } }
      grp := { m.grp with claims := if h.kind = .before then m.grp.claims.map fun c =>
        if c.line = h.line then { c with mask := c.mask ||| spanMask 64 h.first h.count } else c else m.grp.claims }
      host := { m.host with inflight := m.host.inflight.map fun e =>
        if h.kind = .before ∧ e.stage ≠ .done ∧ ∃ o, s.ownerOf h.pos = some o ∧ o.source = e.source ∧ o.tag = e.tag
        then { e with stage := .frontierWait } else e } } := by
    have hi : m.host.inflight = s.host.inflight := by rw [hm]
    unfold State.makeDurable
    by_cases hk : h.kind = .before
    · simp only [hk, if_true, true_and]
      unfold State.moveOwner
      rw [ho _ (by exact hi)]
      cases hw : s.ownerOf h.pos with
      | none => simp [State.widen, State.count, satAdd, Config.counterMax]
      | some o =>
        simp only [State.widen, State.count, satAdd, Config.counterMax, State.setStage, Option.some.injEq]
        congr 2
        refine List.map_congr_left fun e _ => if_congr ?_ rfl rfl
        simp only [Inflight.isLive, Bool.and_eq_true, decide_eq_true_eq]
        constructor
        · rintro ⟨⟨a, b⟩, c⟩; exact ⟨c, o, rfl, a.symm, b.symm⟩
        · rintro ⟨c, x, hx, a, b⟩; cases hx; exact ⟨⟨a.symm, b.symm⟩, c⟩
    · simp [hk, State.count, satAdd, Config.counterMax]
  rw [hcore]
  exact ⟨⟨hf, hn⟩, hmem, by rw [hm]; rfl⟩

/-- The volatile tail computed is the one R3 gives. -/
theorem isVolatileTail_lowestFirst (s : State) : s.IsVolatileTail s.lowestFirst := by
  unfold State.IsVolatileTail State.lowestFirst allSlots
  simp only [List.foldl]
  have h4 : ∀ p : SlotNo → Prop, (∀ i, p i) ↔ p 0 ∧ p 1 ∧ p 2 ∧ p 3 := fun p => Fin.forall_fin_succ.trans (by
    simp [Fin.forall_fin_succ])
  have e4 : ∀ p : SlotNo → Prop, (∃ i, p i) ↔ p 0 ∨ p 1 ∨ p 2 ∨ p 3 := fun p => Fin.exists_fin_succ.trans (by
    simp [Fin.exists_fin_succ])
  rw [h4, h4, e4]
  split_ifs <;> simp_all <;> omega

/-- The close trigger (R21). -/
theorem closeTrigger_eq (s : State) :
    let due : Bool := decide (s.bridge = .running) && decide (s.log.persistedTail < s.log.volatileTail)
    let writes : Bool := due && decide (s.log.anchorOp = .idle)
    let a : Anchor := ⟨(s.log.newest.map (·.serial)).getD 0 + 1, s.log.gen, .active, s.geo.exponent, s.log.volatileTail⟩
    s.closeTrigger = { s with
      log := { s.log with
        anchorOp := if writes = true then .writing s.nextCopy a .running else s.log.anchorOp
        followUp := s.log.followUp || (due && !writes) }
      mport := { s.mport with logQ := s.mport.logQ ++ if writes = true
        then [⟨.anchorWrite, true, s.geo.anchorAddr s.nextCopy, 64, spanMask 96 0 64, a.bytes⟩] else [] } } := by
  unfold State.closeTrigger
  by_cases h : s.bridge = .running ∧ s.log.persistedTail < s.log.volatileTail
  · rw [if_pos h]
    have hd : (decide (s.bridge = .running) && decide (s.log.persistedTail < s.log.volatileTail)) = true := by
      rw [decide_eq_true h.1, decide_eq_true h.2]; rfl
    by_cases ho : s.log.anchorOp = .idle
    · rw [if_pos ho]
      have hi : decide (s.log.anchorOp = .idle) = true := decide_eq_true ho
      simp only [hd, hi, Bool.and_self, if_true, Bool.not_true, Bool.and_false, Bool.or_false]
      rfl
    · rw [if_neg ho]
      have hi : decide (s.log.anchorOp = .idle) = false := decide_eq_false ho
      simp [hd, hi]
  · rw [if_neg h]
    have hd : (decide (s.bridge = .running) && decide (s.log.persistedTail < s.log.volatileTail)) = false := by
      rw [← Bool.decide_and]; exact decide_eq_false h
    simp [hd]

/-- The signals of a close. -/
theorem wakeClose_eq (s u : State) (i : SlotNo) (full : Bool) : s.wakeClose (u.claimedLines i) full = { s with
    host := { s.host with holds := s.host.holds.map fun x => { x with marked := x.marked ||
      match x.reason with
      | .line l | .rollbackRead l => u.grp.claims.any fun x => decide (x.owner = i) && decide (x.line = l)
      | .groupSlot => true
      | .claimSpace => full && u.grp.claims.any fun x => decide (x.owner = i)
      | .order _ _ | .logSpace => false } } } := by
  have he : (!(u.claimedLines i).isEmpty) = u.grp.claims.any fun x => decide (x.owner = i) := by
    rw [Bool.eq_iff_iff]
    simp [State.claimedLines]
  refine congrArg s.setHolds (List.map_congr_left fun h _ => (mark_if h _).trans ?_)
  obtain ⟨req, reason, deadline, room, marked⟩ := h
  cases reason <;> simp only [claimedLines_contains, he]

/-- A group is released (R57). -/
theorem releaseGroup_eq (s : State) (i : SlotNo) : s.releaseGroup i = { s with
    grp := { s.grp with
      slots := s.grp.slots.set i GroupSlot.free
      claims := s.grp.claims.filter fun x => decide (x.owner ≠ i) }
    host := { s.host with holds := s.host.holds.map fun x => { x with marked := x.marked ||
      match x.reason with
      | .line l | .rollbackRead l => s.grp.claims.any fun x => decide (x.owner = i) && decide (x.line = l)
      | .groupSlot => true
      | .claimSpace => decide (256 ≤ s.grp.claims.length) && s.grp.claims.any fun x => decide (x.owner = i)
      | .order _ _ | .logSpace => false } }
    log := { s.log with volatileTail :=
      ({ s with grp := { s.grp with slots := s.grp.slots.set i GroupSlot.free } } : State).lowestFirst } } := by
  unfold State.releaseGroup
  dsimp only
  rw [wakeClose_eq]
  rfl

theorem lowestFirst_congr {s t : State} (hg : t.grp.slots = s.grp.slots) (hh : t.log.head = s.log.head) :
    t.lowestFirst = s.lowestFirst := by
  have e : t.slot = s.slot := funext fun i => State.slot_congr hg i
  unfold State.lowestFirst
  rw [e, hh]

theorem isVolatileTail_congr {s t : State} {p : Nat} (hg : t.grp.slots = s.grp.slots) (hh : t.log.head = s.log.head)
    (h : s.IsVolatileTail p) : t.IsVolatileTail p := by
  have e : t.slot = s.slot := funext fun i => State.slot_congr hg i
  unfold State.IsVolatileTail at h ⊢
  rw [e, hh]; exact h

/-- The release of a group, its counters and notice, and the close trigger (R21, R57, R109). -/
theorem releaseAndTrigger_eq (s : State) (i : SlotNo) (f : Counters → Counters) (kind : NoticeKind) (g : GroupSlot)
    (d : Detail) (pos : Nat) :
    let n := (((s.releaseGroup i).count f).postClose kind g d pos).closeTrigger
    let due : Bool := decide (s.bridge = .running) && decide (s.log.persistedTail < n.log.volatileTail)
    let writes : Bool := due && decide (s.log.anchorOp = .idle)
    let a : Anchor := ⟨(s.log.newest.map (·.serial)).getD 0 + 1, s.log.gen, .active, s.geo.exponent, n.log.volatileTail⟩
    n.IsVolatileTail n.log.volatileTail ∧ n = { s with
      host := { s.host with holds := s.host.holds.map fun x => { x with marked := x.marked ||
        match x.reason with
        | .line l | .rollbackRead l => s.grp.claims.any fun x => decide (x.owner = i) && decide (x.line = l)
        | .groupSlot => true
        | .claimSpace => decide (256 ≤ s.grp.claims.length) && s.grp.claims.any fun x => decide (x.owner = i)
        | .order _ _ | .logSpace => false } }
      grp := { s.grp with
        slots := s.grp.slots.set i GroupSlot.free
        claims := s.grp.claims.filter fun x => decide (x.owner ≠ i) }
      log := { s.log with
        volatileTail := n.log.volatileTail
        anchorOp := if writes = true then .writing s.nextCopy a .running else s.log.anchorOp
        followUp := s.log.followUp || (due && !writes) }
      mport := { s.mport with logQ := s.mport.logQ ++ if writes = true
        then [⟨.anchorWrite, true, s.geo.anchorAddr s.nextCopy, 64, spanMask 96 0 64, a.bytes⟩] else [] }
      notes := ((s.count f).post kind g.key d g.records pos).notes } := by
  intro n
  have hn : n = (((s.releaseGroup i).count f).postClose kind g d pos).closeTrigger := rfl
  clear_value n
  obtain ⟨r, hr⟩ : ∃ r, r = s.releaseGroup i := ⟨_, rfl⟩
  rw [← hr] at hn
  rw [releaseGroup_eq] at hr
  rw [closeTrigger_eq] at hn
  have ht : n.log.volatileTail = r.log.volatileTail := by rw [hn]; rfl
  have hv : r.IsVolatileTail r.log.volatileTail := by
    have h := isVolatileTail_lowestFirst ({ s with grp := { s.grp with slots := s.grp.slots.set i GroupSlot.free } } : State)
    have e : r.log.volatileTail =
        ({ s with grp := { s.grp with slots := s.grp.slots.set i GroupSlot.free } } : State).lowestFirst := by rw [hr]
    rw [e]
    exact isVolatileTail_congr (by rw [hr]) (by rw [hr]) h
  refine ⟨?_, ?_⟩
  · rw [ht]; exact isVolatileTail_congr (by rw [hn]; rfl) (by rw [hn]; rfl) hv
  · rw [ht, hn, hr]; rfl

/-- A closing record completes. -/
theorem groupEnded_completeClosing (s : State) (i : SlotNo)
    (h : (s.slot i).state = .committing ∨ (s.slot i).state = .rollingBack ∨ (s.slot i).state = .broken) :
    GroupEnded s (s.completeClosing i) i := by
  have hset : ∀ g : GroupSlot, (s.grp.slots.set i g).set i GroupSlot.free = s.grp.slots.set i GroupSlot.free :=
    fun g => Vector.set_set _ _
  unfold GroupEnded State.completeClosing
  rcases h with h | h | h
  · simp only [h]
    obtain ⟨x, hx⟩ : ∃ x, x = s.answerWaiter i fun _ => .done [] := ⟨_, rfl⟩
    rw [← hx]
    rw [answerWaiter_eq] at hx
    obtain ⟨hv, he⟩ := releaseAndTrigger_eq x i (fun c => { c with committed := satAdd c.committed 1 }) .groupCommitted
      (s.slot i) (s.slot i).causeDetail ((s.slot i).closing.getD 0)
    refine ⟨hv, he.trans ?_⟩
    generalize (((x.releaseGroup i).count _).postClose _ _ _ _).closeTrigger = n
    rw [hx]
    simp only [hset]
    rfl
  · simp only [h]
    obtain ⟨x, hx⟩ : ∃ x, x = s.answerWaiter i fun w => if w.kind = .commit then .failed .damaged else .done [] := ⟨_, rfl⟩
    rw [← hx]
    rw [answerWaiter_eq] at hx
    obtain ⟨hv, he⟩ := releaseAndTrigger_eq x i (fun c => { c with rolledBack := satAdd c.rolledBack 1 }) .groupRolledBack
      (s.slot i) (s.slot i).causeDetail ((s.slot i).closing.getD 0)
    generalize hn : (((x.releaseGroup i).count _).postClose _ _ _ _).closeTrigger = n at hv he
    have hxb : x.start = s.start := by rw [hx]
    by_cases hb : s.bridge = .recovering
    · rw [if_pos hb]
      simp only [true_and]
      rw [if_pos hb]
      have hs : n.start = s.start := by rw [he]; exact hxb
      refine ⟨isVolatileTail_congr rfl rfl hv, ?_⟩
      have hc : n.countRecovered =
          ({ n with start := s.start.map fun o => { o with rolledBack := o.rolledBack + 1 } } : State) := by
        unfold State.countRecovered; rw [hs]
      rw [hc]
      refine (congrArg (fun y : State => ({ y with
        start := s.start.map fun o => { o with rolledBack := o.rolledBack + 1 } } : State)) he).trans ?_
      rw [hx]
      simp only [hset]
      rfl
    · rw [if_neg hb]
      simp only [true_and]
      rw [if_neg hb]
      refine ⟨hv, he.trans ?_⟩
      rw [hx]
      simp only [hset]
      rfl
  · simp only [h]
    obtain ⟨hv, he⟩ := releaseAndTrigger_eq s i id .groupReleased (s.slot i) .none ((s.slot i).closing.getD 0)
    generalize hn : (((s.releaseGroup i).count _).postClose _ _ _ _).closeTrigger = n at hv he
    have hn' : (((s.releaseGroup i).postClose .groupReleased (s.slot i) .none ((s.slot i).closing.getD 0)).closeTrigger) = n := hn
    rw [hn']
    refine ⟨isVolatileTail_congr rfl rfl hv, ?_⟩
    show ({ n with link := { n.link with state := .idle, buffer := .answer .ok [] } } : State) = _
    have hl : n.link = s.link := by rw [he]
    rw [hl]
    refine (congrArg (fun y : State => { y with link := { s.link with state := .idle, buffer := .answer .ok [] } })
      he).trans ?_
    congr 1
    simp <;> (intro a _; cases a.reason <;> rfl)

theorem mem_allSlots : ∀ i : SlotNo, i ∈ allSlots := by decide

theorem inj_of_pairwise {α : Type} (f : α → Nat) : ∀ (l : List α), l.Pairwise (fun i j => f i < f j) →
    ∀ i ∈ l, ∀ j ∈ l, f i = f j → i = j
  | [], _, _, h, _, _, _ => by cases h
  | a :: l, hp, i, hi, j, hj, e => by
    rw [List.pairwise_cons] at hp
    rcases List.mem_cons.1 hi with rfl | hi' <;> rcases List.mem_cons.1 hj with rfl | hj'
    · rfl
    · have := hp.1 j hj'; omega
    · have := hp.1 i hi'; omega
    · exact inj_of_pairwise f l hp.2 i hi' j hj' e

theorem mem_completeSlots (m : State) (i : SlotNo) : i ∈ m.completeSlots ↔
    ∃ p, (m.slot i).closing = some p ∧ m.behindFrontier p 1 = true := by
  unfold State.completeSlots
  rw [List.mem_insertionSort, List.mem_filter]
  constructor
  · rintro ⟨_, h⟩
    cases hc : (m.slot i).closing with
    | none => rw [hc] at h; simp at h
    | some p => rw [hc] at h; exact ⟨p, rfl, h⟩
  · rintro ⟨p, hc, h⟩
    refine ⟨mem_allSlots i, ?_⟩
    rw [hc]; exact h

theorem completeSlots_sorted (m : State) :
    m.completeSlots.Pairwise fun i j => (m.slot i).closing.getD 0 ≤ (m.slot j).closing.getD 0 := by
  unfold State.completeSlots
  exact List.pairwise_insertionSort _ _

theorem completeSlots_nodup (m : State) : m.completeSlots.Nodup := by
  unfold State.completeSlots
  rw [(List.perm_insertionSort _ _).nodup_iff]
  exact List.Nodup.filter _ (by decide)

/-- The slots whose closing record has completed (R16): the list sorted by position that holds just them. -/
theorem completeSlots_eq (m : State) (ends : List SlotNo)
    (hmem : ∀ i, i ∈ ends ↔ ∃ p, (m.slot i).closing = some p ∧ m.behindFrontier p 1 = true)
    (hs : ends.Pairwise fun i j => ∀ p q, (m.slot i).closing = some p → (m.slot j).closing = some q → p < q) :
    m.completeSlots = ends := by
  have hclos : ∀ i ∈ ends, (m.slot i).closing = some ((m.slot i).closing.getD 0) := fun i hi => by
    obtain ⟨p, hp, _⟩ := (hmem i).1 hi; simp [hp]
  have hs' : ends.Pairwise fun i j => (m.slot i).closing.getD 0 < (m.slot j).closing.getD 0 :=
    hs.imp_of_mem fun {i j} hi hj h => h _ _ (hclos i hi) (hclos j hj)
  have hperm : m.completeSlots.Perm ends := by
    refine (List.perm_ext_iff_of_nodup (completeSlots_nodup m) ?_).2 fun i => (mem_completeSlots m i).trans (hmem i).symm
    exact hs'.imp fun h e => by subst e; exact absurd h (lt_irrefl _)
  refine List.Perm.eq_of_pairwise (le := fun i j => (m.slot i).closing.getD 0 ≤ (m.slot j).closing.getD 0) ?_
    (completeSlots_sorted m) (hs'.imp Nat.le_of_lt) hperm
  intro i j hi hj hij hji
  exact inj_of_pairwise _ ends hs' i (hperm.mem_iff.1 hi) j hj (Nat.le_antisymm hij hji)

theorem slot_of_groupEnded {m n : State} {i j : SlotNo} (h : GroupEnded m n i) (hne : j ≠ i) : n.slot j = m.slot j := by
  have he := h.2
  have : n.grp.slots = m.grp.slots.set i GroupSlot.free := by rw [he]
  unfold State.slot
  rw [this]
  exact Vector.getElem_set_ne _ _ (fun e => hne (Fin.ext e.symm))

/-- Closing records that complete in one step. -/
theorem groupsEnd_foldl : ∀ (ends : List SlotNo) (m : State), ends.Nodup →
    (∀ i ∈ ends, (m.slot i).state = .committing ∨ (m.slot i).state = .rollingBack ∨ (m.slot i).state = .broken) →
    GroupsEnd ends m (ends.foldl State.completeClosing m)
  | [], m, _, _ => .nil
  | i :: is, m, hn, hs => by
    have h := groupEnded_completeClosing m i (hs i (by simp))
    rw [List.nodup_cons] at hn
    refine .cons h (groupsEnd_foldl is _ hn.2 fun j hj => ?_)
    rw [slot_of_groupEnded h (fun e => hn.1 (e ▸ hj))]
    exact hs j (by simp [hj])

theorem done_if_isLive (source : Source) (tag : ReqTag) (e : Inflight) :
    (if e.isLive source tag = true then { e with stage := Stage.done } else e) =
      if e.source = source ∧ e.tag = tag then { e with stage := .done } else e := by
  rcases e with ⟨es, et, ew, est⟩
  by_cases hd : est = .done <;> by_cases h1 : es = source <;> by_cases h2 : et = tag <;>
    simp [Inflight.isLive, hd, h1, h2]

/-- An admitted request is answered. -/
theorem answerAdmitted_eq (m : State) (source : Source) (tag : ReqTag) (a : Answer) :
    m.answerAdmitted source tag a = { m with host := { m.host with
        inflight := m.host.inflight.map fun e => if e.source = source ∧ e.tag = tag then { e with stage := .done } else e
        responses := m.host.responses ++ [⟨source, tag, a, true⟩] } } := by
  unfold State.answerAdmitted State.setStage State.respond
  have : (fun e : Inflight => if e.isLive source tag = true then { e with stage := Stage.done } else e) =
      fun e => if e.source = source ∧ e.tag = tag then { e with stage := .done } else e := by
    funext e
    exact done_if_isLive source tag e
  rw [this]

/-! ### The answer of a journaled write -/

theorem foldl_refuse_wake (l : List Hold) (r : Reason) (s : State) :
    l.foldl (fun s h => (s.refuse h.req r).wakeOrder h.req.source h.req.tag) s = { s with host := { s.host with
      holds := s.host.holds.map fun h =>
        if l.any fun g => decide (h.reason = .order g.req.source g.req.tag) then { h with marked := true } else h
      responses := s.host.responses ++ l.map fun h => ⟨h.req.source, h.req.tag, .refused r, false⟩ } } := by
  induction l generalizing s with
  | nil => simp
  | cons g l ih =>
    rw [List.foldl_cons, ih]
    simp only [State.wakeOrder, State.wake, State.setHolds, State.refuse, State.respond, List.map_map, List.map_cons,
      List.append_assoc, List.singleton_append]
    congr 2
    refine List.map_congr_left fun h _ => ?_
    by_cases h1 : h.reason = .order g.req.source g.req.tag <;> simp [h1]

/-- The held writes of a slot's key are refused (R84, R86). -/
theorem refuseHeldWrites_eq (s : State) (i : SlotNo) (why : Reason) :
    s.refuseHeldWrites (s.slot i).key why = s.withWritesRefused i why := by
  unfold State.refuseHeldWrites State.refuseHeld
  rw [foldl_refuse_wake]
  rfl

theorem withSlot_eq (s : State) (i : SlotNo) (f : GroupSlot → GroupSlot) : s.updSlot i f = s.withSlot i (f (s.slot i)) := rfl

theorem slot_withSlot_self (s : State) (i : SlotNo) (g : GroupSlot) : (s.withSlot i g).slot i = g := by
  simp only [State.withSlot, State.slot]
  exact Vector.getElem_set_self _

/-- The closing step of a slot (R46, R96, R98, R146). -/
theorem closingStepTaken_closingStep (s : State) (i : SlotNo) : ClosingStepTaken s (s.closingStep i) i := by
  have hr : (s.updSlot i fun g => { g with state := .rollbackWait, cause := some .damaged }).refuseHeldWrites
      (s.slot i).key .groupClosing =
      (s.withWritesRefused i .groupClosing).withSlot i
        { s.slot i with state := .rollbackWait, cause := some .damaged } := by
    have hk := refuseHeldWrites_eq (s.updSlot i fun g => { g with state := .rollbackWait, cause := some .damaged }) i
      .groupClosing
    rw [withSlot_eq, slot_withSlot_self] at hk
    rw [withSlot_eq]
    refine hk.trans ?_
    unfold State.withWritesRefused
    rw [slot_withSlot_self]
    rfl
  unfold ClosingStepTaken State.closingStep
  dsimp only
  refine ⟨fun hm hs hd => ?_, fun hm hs hd => ?_, fun hm hs => ?_, fun h => ?_⟩
  · rw [if_neg (by rintro (h | h); exacts [h hm.1, hm.2 h]), hs]; simp [hd, State.requestClosing]
  · rw [if_neg (by rintro (h | h); exacts [h hm.1, hm.2 h]), hs]; simp only [hd, if_true, hr]; rfl
  · rw [if_neg (by rintro (h | h); exacts [h hm.1, hm.2 h]), hs]; rfl
  · by_cases hm : (s.slot i).inflight ≠ 0 ∨ s.bridge = .faulted
    · rw [if_pos hm]
    · rw [if_neg hm]
      rcases h with h | h
      · exact absurd ⟨not_not.1 fun e => hm (.inl e), fun e => hm (.inr e)⟩ h
      · cases hs : (s.slot i).state <;> simp_all

/-- A journaled write is answered: its entry, its response, its group's in-flight count, and the closing step (R46). -/
theorem answerWrite_cases (s : State) (source : Source) (tag : ReqTag) (i : SlotNo) (a : Answer) :
    ClosingStepTaken (s.withWriteAnswered source tag i a) (s.answerWrite source tag i a) i := by
  have h : (s.answerAdmitted source tag a).updSlot i (fun g => { g with inflight := g.inflight - 1 }) =
      s.withWriteAnswered source tag i a := by
    rw [answerAdmitted_eq]; rfl
  unfold State.answerWrite
  rw [h]
  exact closingStepTaken_closingStep _ _

/-- A group is damaged (R49, R86). -/
theorem slotDamaged_damage (s : State) (i : SlotNo) : SlotDamaged s (s.damage i) i := by
  have hk := refuseHeldWrites_eq (s.updSlot i fun g => { g with damaged := true }) i .damaged
  rw [withSlot_eq, slot_withSlot_self] at hk
  unfold SlotDamaged State.damage
  dsimp only
  refine ⟨fun h => ?_, fun h => ?_⟩
  · rw [if_pos h, withSlot_eq]; exact hk
  · rw [if_neg h]; rfl

end Sys2Proof.Machine
end

