-- ==== Sys2Proof/Laws/Steady.lean ====
section
/-! SUPPORT. Steady operations: what every rule of the part keeps, the bridge's moves and the admissions included.
`Steady s t` says that the configuration, the memory and the tag states stand, and that no table overflows. -/

namespace Sys2Proof.Machine

/-- What every rule of the part that is not an M-port answer, a grant, a configuration command or a reset keeps. -/
structure Steady (s t : State) : Prop where
  power : t.power = s.power
  regions : t.regions = s.regions
  pfwHigh : t.pfwHigh = s.pfwHigh
  now : t.now = s.now
  mem : t.mem = s.mem
  pending : t.pending = s.pending
  straps : t.link.straps = s.link.straps
  lock : t.link.lock = s.link.lock
  policy : t.link.policy = s.link.policy
  mask : t.notes.mask = s.notes.mask
  geometry : t.log.geometry = s.log.geometry
  tagState : ∀ i, (t.tag i).state = (s.tag i).state
  tagCls : ∀ i, (t.tag i).cls = (s.tag i).cls
  fits : s.fits → t.fits

theorem Steady.refl (s : State) : Steady s s :=
  ⟨rfl, rfl, rfl, rfl, rfl, rfl, rfl, rfl, rfl, rfl, rfl, fun _ => rfl, fun _ => rfl, id⟩

theorem Steady.trans {s t u : State} (h : Steady s t) (k : Steady t u) : Steady s u where
  power := k.power.trans h.power
  regions := k.regions.trans h.regions
  pfwHigh := k.pfwHigh.trans h.pfwHigh
  now := k.now.trans h.now
  mem := k.mem.trans h.mem
  pending := k.pending.trans h.pending
  straps := k.straps.trans h.straps
  lock := k.lock.trans h.lock
  policy := k.policy.trans h.policy
  mask := k.mask.trans h.mask
  geometry := k.geometry.trans h.geometry
  tagState i := (k.tagState i).trans (h.tagState i)
  tagCls i := (k.tagCls i).trans (h.tagCls i)
  fits := fun x => k.fits (h.fits x)

/-- A growth that the tables have room for is steady. -/
theorem Grow.steady {n : Room4} {s t : State} (g : Grow n s t) (hf : s.fits → t.fits) : Steady s t :=
  ⟨g.power, g.regions, g.pfwHigh, g.now, g.mem, g.pending, g.straps, g.lock, g.policy, g.mask, g.geometry, g.tagState, g.tagCls,
    hf⟩

/-- A growth of nothing is steady. -/
theorem Grow.steady_none {s t : State} (g : Grow .none s t) : Steady s t := g.steady g.fits_none

/-- A quiet operation is steady. -/
theorem Quiet.steady {s t : State} (q : Quiet s t) : Steady s t := (q.grow .none).steady_none

theorem Steady.ite {s t u : State} {p : Prop} [Decidable p] (h : p → Steady s t) (k : ¬ p → Steady s u) :
    Steady s (if p then t else u) := by
  by_cases hp : p
  · rw [if_pos hp]; exact h hp
  · rw [if_neg hp]; exact k hp

/-- A change of the bridge state, of START and of the timer alone is steady. -/
theorem Steady.control {s : State} {b : Bridge} {o : Option StartOp} {r : Option Nat} :
    Steady s { s with bridge := b, start := o, resumeAt := r } := Grow.control.steady_none

/-! ### Admission -/

/-- Re-deciding a request with its verdict: the tables have the room. -/
theorem steady_of_growth {s t : State} {v : Verdict} (g : Grow (v.growth s) s t) (hs : v.Sound s)
    (hr : s.shortage v = none) (hold : ∀ why, v = .hold why → s.fits → t.host.holds.length ≤ Config.holdDepth) :
    Steady s t := by
  refine g.steady fun hf => ?_
  obtain ⟨h1, h2⟩ := room_of_shortage s v hr hf
  cases v with
  | refuse why => exact g.fits_none hf
  | hold why =>
    exact ⟨g.intake.trans hf.1, hold why rfl hf, g.inflight.trans h1, g.window.trans h2, g.claims.trans hf.2.2.2.2.1,
      g.notices hf.2.2.2.2.2⟩
  | pass => exact g.fits hf hf.2.1 h1 h2 hf.2.2.2.2.1
  | journal p =>
    refine g.fits hf hf.2.1 h1 h2 ?_
    have hc := hs.claims p rfl
    have hl := hf.2.2.2.2.1
    show s.grp.claims.length + (if p.claims then 1 else 0) ≤ _
    cases hp : p.claims
    · exact hl
    · exact hc hp

theorem placeHold_length (s : State) (r : Request) (why : HoldReason)
    (h : s.host.holds.length ≤ Config.holdDepth) : (s.placeHold r why).host.holds.length ≤ Config.holdDepth := by
  unfold State.placeHold
  split
  · simpa [State.setHolds] using ‹_›
  · exact h

theorem steady_settleFront (s : State) (r : Request) (v : Verdict) (hs : v.Sound s) :
    Steady s (s.settleFront r v) := by
  by_cases hr : s.shortage v = none
  · refine steady_of_growth (grow_settleFront s r v) hs hr (fun why hv hf => ?_)
    subst hv
    exact placeHold_length _ _ _ hf.2.1
  · obtain ⟨p, hp⟩ := Option.ne_none_iff_exists'.1 hr
    have : s.settleFront r v = s.pauseFor p := by unfold State.settleFront; rw [hp]
    rw [this]
    exact (quiet_pauseFor _ _).steady

theorem steady_admitMark (s : State) (source : Source) (tag : ReqTag) (group : GroupNo) (kind : MarkKind)
    (v : MarkVerdict) (hr : s.inflightRoom = true) : Steady s (s.admitMark source tag group kind v) := by
  have g := grow_admitMark s source tag group kind v
  simp only [State.inflightRoom, decide_eq_true_eq] at hr
  exact g.steady fun hf => g.fits hf hf.2.1 hr hf.2.2.2.1 hf.2.2.2.2.1

theorem steady_settleMark (s : State) (r : Request) (group : GroupNo) (kind : MarkKind) (v : MarkVerdict) :
    Steady s (s.settleMark r group kind v) := by
  have room (v : MarkVerdict) : Steady s
      (if s.inflightRoom then s.takeFront.admitMark r.source r.tag group kind v else s.pauseFor .inFlight) :=
    Steady.ite (fun h => (quiet_takeFront s).steady.trans (steady_admitMark s.takeFront _ _ _ _ _ h))
      fun _ => (quiet_pauseFor _ _).steady
  unfold State.settleMark
  cases v with
  | refuse why => exact ((quiet_takeFront _).trans (quiet_refuse _ _ _)).steady
  | broken => exact room .broken
  | join i => exact room (.join i)
  | close i st c => exact room (.close i st c)

theorem steady_decideFront (s : State) : Steady s s.decideFront := by
  unfold State.decideFront
  split
  · exact Steady.refl s
  · refine Steady.ite (fun _ => ((quiet_takeFront _).trans (quiet_refuse _ _ _)).steady) fun _ => ?_
    split
    · exact steady_settleFront _ _ _ (sound_readVerdict _ _ _ _)
    · exact steady_settleFront _ _ _ (sound_writeVerdict _ _ _ _ _ _)
    · exact steady_settleMark _ _ _ _ _

theorem steady_redecidePaused (s : State) : Steady s s.redecidePaused :=
  Steady.ite (fun _ => steady_decideFront _) fun _ => Steady.refl s

theorem steady_takeNext (s : State) (p : ReqBody → Bool) : Steady s (s.takeNext p) := by
  unfold State.takeNext
  split
  · exact Steady.refl s
  · exact Steady.ite (fun _ => steady_decideFront _) fun _ => Steady.refl s

/-! ### Re-evaluation -/

theorem steady_reevaluate (s : State) (older : List Hold) (h : Hold) (younger : List Hold)
    (hs : s.host.holds = older ++ h :: younger) : Steady s (s.reevaluate older h younger) := by
  have keep : ∀ h' : Hold, Quiet s (s.setHolds (older ++ h' :: younger)) := fun h' =>
    quiet_setHolds _ _ (by rw [hs]; simp)
  have out : Quiet s ((s.setHolds (older ++ younger)).wakeOrder h.req.source h.req.tag) :=
    (quiet_setHolds _ _ (by rw [hs]; simp)).trans (quiet_wakeOrder _ _ _)
  unfold State.reevaluate
  dsimp only
  split
  · exact (keep _).steady
  · rename_i hr
    generalize hv : s.heldVerdict older h.req = v at hr
    have sound : v.Sound s := hv ▸ sound_heldVerdict s older h.req
    have adm : ∀ w : Verdict, w = v → (∀ why, w ≠ .hold why) → Steady s
        (((s.setHolds (older ++ younger)).wakeOrder h.req.source h.req.tag).admitRequest h.req w) := by
      intro w hw hne
      subst hw
      refine steady_of_growth (v := w) (out.then ?_) sound hr (fun why hw => absurd hw (hne why))
      have hg : w.growth s = w.growth ((s.setHolds (older ++ younger)).wakeOrder h.req.source h.req.tag) := by
        cases w <;> rfl
      rw [hg]
      exact grow_admit _ h.req w
    cases v with
    | refuse why => exact (out.trans (quiet_refuse _ _ _)).steady
    | hold why => exact (keep _).steady
    | pass => exact adm .pass rfl (fun _ => by simp)
    | journal p => exact adm (.journal p) rfl (fun _ => by simp)

theorem steady_reevaluateOldest (s : State) : Steady s s.reevaluateOldest := by
  unfold State.reevaluateOldest
  split
  · exact Steady.refl s
  · rename_i h younger hd
    exact steady_reevaluate s _ h younger (by rw [← hd]; exact (List.takeWhile_append_dropWhile).symm)

theorem steady_reevaluatePass (s : State) (n : Nat) : Steady s (s.reevaluatePass n) := by
  induction n generalizing s with
  | zero => exact Steady.refl s
  | succ n ih => exact (steady_reevaluateOldest s).trans (ih _)

/-! ### The bridge's moves -/

/-- The bridge moves and the hold list is emptied. -/
theorem steady_leaveRunning (s : State) (b : Bridge) (o : Option StartOp) (r : Option Nat) (l : LogSide)
    (h1 : l.geometry = s.log.geometry) (h2 : l.window.length ≤ s.log.window.length) (why : Reason) :
    Steady s (State.emptyHolds { s with bridge := b, start := o, resumeAt := r, log := l } why) := by
  have g : Grow .none s { s with bridge := b, start := o, resumeAt := r, log := l } :=
    { Grow.refl .none s with geometry := h1, window := h2 }
  exact (g.quiet (quiet_emptyHolds _ why)).steady_none

theorem steady_enterDraining (s : State) : Steady s s.enterDraining :=
  (steady_leaveRunning s .draining s.start s.resumeAt { s.log with followUp := false } rfl (le_refl _) .halted).trans
    (steady_redecidePaused _)

theorem steady_enterRunning (s : State) : Steady s s.enterRunning := by
  have h : Steady s { s with bridge := .running } := Steady.control (o := s.start) (r := s.resumeAt)
  exact Steady.ite (fun _ => h.trans (steady_enterDraining _)) fun _ => h

theorem steady_enterHalted (s : State) : Steady s s.enterHalted :=
  (Steady.control (b := .halted) (o := s.start) (r := s.resumeAt)).trans (quiet_resumeIfAuto _).steady

/-- What follows the move to FAULTED: requests cut off, writes and waiters answered, deadlines and retries cleared. -/
theorem quiet_cutOff (u : State) : Quiet u
    ((allSlots.foldl (fun s i => s.answerWaiter i fun _ => Answer.failed .faulted)
      (u.host.inflight.foldl State.answerFaulted u)).clearIdle.dropRetry.failRelease) := by
  have a : Quiet u (u.host.inflight.foldl State.answerFaulted u) := Quiet.foldl State.answerFaulted quiet_answerFaulted _ u
  generalize u.host.inflight.foldl State.answerFaulted u = v at a ⊢
  have b : Quiet v (allSlots.foldl (fun s i => s.answerWaiter i fun _ => Answer.failed .faulted) v) :=
    Quiet.foldl _ (fun _ _ => quiet_answerWaiter _ _ _) _ v
  generalize allSlots.foldl (fun (s : State) i => s.answerWaiter i fun _ => Answer.failed .faulted) v = w at b ⊢
  exact a.trans (b.trans (((quiet_clearIdle w).trans (quiet_dropRetry _)).trans (quiet_failRelease _)))

theorem steady_enterFaulted (s : State) (d : Detail) (pos : Nat) : Steady s (s.enterFaulted d pos) := by
  have h1 : Steady s ((State.emptyHolds { s.post .logFaulted Key.zero d 0 pos with
      bridge := .faulted, start := none, resumeAt := none } .faulted)) :=
    (quiet_post s .logFaulted Key.zero d 0 pos).steady.trans
      (steady_leaveRunning (s.post .logFaulted Key.zero d 0 pos) .faulted none none _ rfl (le_refl _) .faulted)
  have h2 := h1.trans (steady_redecidePaused _)
  have h3 := h2.trans (quiet_withdraw _ Ref.cutByFault).steady
  exact h3.trans (quiet_cutOff _).steady

theorem steady_toGated (s : State) : Steady s s.toGated := by
  have g : Grow .none s.forgetRollback s.toGated :=
    { Grow.refl .none s.forgetRollback with window := Nat.zero_le _, claims := Nat.zero_le _ }
  exact (quiet_forgetRollback s).steady.trans g.steady_none

theorem steady_failRecovery (s : State) (d : Detail) (pos : Nat) : Steady s (s.failRecovery d pos) :=
  (quiet_post _ _ _ _ _ _).steady.trans (steady_toGated _)

theorem steady_faultRecovery (s : State) (d : Detail) (pos : Nat) : Steady s (s.faultRecovery d pos) :=
  (quiet_post _ _ _ _ _ _).steady.trans (steady_enterFaulted _ _ _)

theorem steady_stopCheck (s : State) : Steady s s.stopCheck :=
  Steady.ite (fun _ => steady_failRecovery _ _ _) fun _ => Steady.refl s

theorem steady_stopRecovery (s : State) : Steady s s.stopRecovery := by
  refine Steady.ite (fun _ => Steady.refl s) fun _ => ?_
  have q := quiet_withdraw s fun r => decide (r = .anchorWrite)
  generalize s.withdraw (fun r => decide (r = .anchorWrite)) = t at q ⊢
  have k : Quiet t ({ t with
      start := t.start.map fun o => { o with stopping := true }
      log := { t.log with due := [], anchorOp := .idle } } : State) := { Quiet.refl t with }
  exact (q.trans k).steady.trans (steady_stopCheck _)

/-! ### The rollback engine -/

theorem steady_walkFail (s : State) (w : Walk) (pos : Nat) (d : Detail) : Steady s (s.walkFail w pos d) := by
  unfold State.walkFail
  dsimp only
  have q := ((((quiet_updSlot s w.slot fun g => { g with state := .broken }).trans
    (quiet_answerWaiter _ w.slot fun _ => .failed .broken)).trans
      (quiet_postClose _ .groupBroken (s.slot w.slot) d pos)).trans
        (quiet_wakeReads _ (s.claimedLines w.slot))).trans (quiet_withdraw _ Ref.ofRollback)
  refine Steady.ite (fun _ => ?_) fun _ => ?_
  · exact (q.trans (quiet_setWalk _ _)).steady.trans (steady_faultRecovery _ _ _)
  · exact (q.trans (quiet_setWalk _ _)).steady

theorem steady_considerRecord (s : State) (w : Walk) (bs : List Byte) : Steady s (s.considerRecord w bs) := by
  unfold State.considerRecord
  split
  · exact steady_walkFail _ _ _ _
  · refine Steady.ite (fun _ => Steady.ite (fun _ => (quiet_walkComplete _ _).steady)
      fun _ => (quiet_walkTo _ _ _).steady) fun _ => ?_
    refine Steady.ite (fun _ => ?_) fun _ => ?_
    · exact ((quiet_handRestore _ _ _).trans (quiet_setWalk _ _)).steady
    · exact (((quiet_handRestore _ _ _).trans (quiet_setWalk _ _)).trans (quiet_handWalkRead _ _)).steady

theorem steady_walkReadDone (s : State) (bs : List Byte) : Steady s (s.walkReadDone bs) := by
  unfold State.walkReadDone
  have kept (w : Walk) : Steady s (if s.bridge = .faulted ∨ s.stopping then s else
      s.setWalk (some { w with ahead := .kept bs })) :=
    Steady.ite (fun _ => Steady.refl s) fun _ => (quiet_setWalk _ _).steady
  split
  · exact Steady.refl s
  · split
    · exact (quiet_endWalk _).steady
    · exact Steady.ite (fun _ => Steady.refl s) fun _ =>
        Steady.ite (fun _ => steady_stopCheck _) fun _ => steady_considerRecord _ _ _
    · exact kept _
    · exact kept _

theorem steady_walkReadFailed (s : State) (pos : Nat) : Steady s (s.walkReadFailed pos) := by
  unfold State.walkReadFailed
  split
  · exact Steady.refl s
  · split
    · exact (quiet_endWalk _).steady
    · exact Steady.ite (fun _ => Steady.refl s) fun _ => steady_walkFail _ _ _ _
    · exact Steady.ite (fun _ => Steady.refl s) fun _ => steady_walkFail _ _ _ _
    · exact Steady.ite (fun _ => Steady.refl s) fun _ => (quiet_setWalk _ _).steady

theorem steady_takeUp (s : State) (w : Walk) (pos : Nat) : Steady s (s.takeUp w pos) := by
  unfold State.takeUp
  dsimp only
  split
  · exact ((quiet_setWalk _ _).trans (quiet_handWalkRead _ _)).steady
  · exact (quiet_setWalk _ _).steady
  · exact steady_considerRecord _ _ _
  · exact steady_walkFail _ _ _ _

theorem steady_restoreDone (s : State) : Steady s s.restoreDone := by
  unfold State.restoreDone
  split
  · exact Steady.refl s
  · split
    · exact (quiet_endWalk _).steady
    · refine Steady.ite (fun _ => Steady.refl s) fun _ => Steady.ite (fun _ => steady_stopCheck _) fun _ =>
        Steady.ite (fun _ => (quiet_walkComplete _ _).steady) fun _ =>
          Steady.ite (fun _ => (quiet_setWalk _ _).steady) fun _ => steady_takeUp _ _ _
    · exact Steady.refl s
    · exact Steady.refl s

theorem steady_restoreFailed (s : State) : Steady s s.restoreFailed := by
  unfold State.restoreFailed
  split
  · exact Steady.refl s
  · split
    · exact (quiet_endWalk _).steady
    · exact steady_walkFail _ _ _ _
    · exact Steady.refl s
    · exact Steady.refl s

theorem steady_resumeWalk (s : State) : Steady s s.resumeWalk := by
  unfold State.resumeWalk
  split
  · exact Steady.refl s
  · exact Steady.ite (fun _ => steady_takeUp _ _ _) fun _ => Steady.refl s

theorem steady_returnToRunning (s : State) (p : ResumePolicy) : Steady s (s.returnToRunning p) := by
  have h : Steady s { s with bridge := .running, resumeAt := none } := Steady.control (o := s.start)
  exact (h.trans (quiet_post _ _ _ _ _ _).steady).trans (steady_resumeWalk _)

/-! ### START -/

theorem steady_recoverJudge (s : State) (o : StartOp) : Steady s (s.recoverJudge o) := by
  unfold State.recoverJudge
  split
  · exact steady_failRecovery _ _ _
  · rename_i c a _
    refine Steady.ite (fun _ => steady_failRecovery _ _ _) fun _ => ?_
    have q : Quiet s ({ s with
        start := some ({ o with
          phase := if a.state = .clean then .rollback else .scan
          topGen := max o.copyA.gen o.copyB.gen
          tail := a.tail
          scanPos := a.tail } : StartOp)
        log := { s.log with
          head := a.tail, persistedTail := a.tail, gen := a.gen, newest := some ⟨c, a.serial, a.state, a.tail⟩ } } :
        State) := { Quiet.refl s with }
    have k := q.trans (quiet_recomputeTail _)
    exact Steady.ite (fun _ => k.steady) fun _ => (k.trans (quiet_readScan _ _)).steady

theorem steady_anchorReadDone (s : State) (c : Copy) (bs : List Byte) :
    Steady s (s.anchorReadDone c bs) := by
  unfold State.anchorReadDone
  split
  · exact Steady.refl s
  · rename_i o ho
    refine Steady.ite (fun _ => steady_stopCheck _) fun _ => ?_
    refine Steady.ite (fun _ => (Quiet.control (r := s.resumeAt)).steady) fun _ => ?_
    split
    · exact (quiet_freshBegin _ _).steady
    · exact steady_recoverJudge _ _

theorem steady_anchorReadFailed (s : State) : Steady s s.anchorReadFailed := by
  unfold State.anchorReadFailed
  split
  · exact Steady.refl s
  · split
    · exact (quiet_failFresh _).steady
    · exact steady_failRecovery _ _ _

end Sys2Proof.Machine
end

