-- ==== Sys2Proof/Laws/Steps.lean ====
section
/-! SUPPORT. Every command, one lemma each: what holds of the state it leaves. `Kept s t` says that the memory keeps its canonical form,
that no table overflows, that the M-port keeps its credits and that the command queue stands. -/

namespace Sys2Proof.Machine

/-! ### The rest of START, and the answers -/

/-- Two quiet operations, the later first. -/
theorem Quiet.after {s t u : State} (k : Quiet t u) (h : Quiet s t) : Quiet s u := h.trans k

theorem steady_scanEnd (s : State) (o : StartOp) : Steady s (s.scanEnd o) := by
  have q : Quiet s ({ s with log := { s.log with head := o.scanPos } } : State).recomputeTail :=
    (Quiet.log (l := { s.log with head := o.scanPos }) rfl (le_refl _)).trans (quiet_recomputeTail _)
  unfold State.scanEnd
  dsimp only
  generalize ({ s with log := { s.log with head := o.scanPos } } : State).recomputeTail = u at q ⊢
  refine Steady.ite (fun _ => q.steady.trans (steady_faultRecovery _ _ _)) fun _ => ?_
  have k : Quiet u { u with start := some { o with phase := .rollback, scanned := o.scanPos - o.tail } } :=
    { Quiet.refl u with }
  exact ((q.trans k).trans (Quiet.foldl _ quiet_recoverSlot _ _)).steady

theorem steady_scanDone (s : State) (bs : List Byte) : Steady s (s.scanDone bs) := by
  unfold State.scanDone
  split
  · exact Steady.refl s
  · rename_i o _
    refine Steady.ite (fun _ => steady_stopCheck _) fun _ => Steady.ite (fun _ => ?_) fun _ => steady_scanEnd _ _
    dsimp only
    split
    · exact steady_faultRecovery _ _ _
    · rename_i t ht
      have q := quiet_rebuild s o o.scanPos (RawHeader.parse bs) t ht
      have k : Quiet t ({ t with start := some { o with scanPos := o.scanPos + (RawHeader.parse bs).slots } } :
          State).recomputeTail := Quiet.after (quiet_recomputeTail _) { Quiet.refl t with }
      exact Steady.ite (fun _ => (q.trans k).steady.trans (steady_scanEnd _ _)) fun _ =>
        ((q.trans k).trans (quiet_readScan _ _)).steady

theorem steady_scanFailed (s : State) : Steady s s.scanFailed := by
  unfold State.scanFailed
  split
  · exact Steady.refl s
  · exact steady_failRecovery _ _ _

theorem steady_freshDone (s : State) (c : Copy) (a : Anchor) : Steady s (s.freshDone c a) := by
  have q : Quiet s ({ s with
      start := none
      log := { s.log with
        head := 0, volatileTail := 0, persistedTail := 0, gen := a.gen, newest := some ⟨c, a.serial, a.state, a.tail⟩
        failures := 0, anchorOp := .idle } } : State) := { Quiet.refl s with }
  exact (q.trans (quiet_answerLink _ _ _)).steady.trans (steady_enterRunning _)

theorem steady_recovered (s : State) (c : Copy) (a : Anchor) : Steady s (s.recovered c a) := by
  have q := quiet_adoptAnchor s c a
  unfold State.recovered
  dsimp only
  generalize s.adoptAnchor c a = t at q ⊢
  have k : Quiet t { t with start := none, log := { t.log with volatileTail := a.tail, gen := a.gen } } :=
    { Quiet.refl t with }
  exact ((q.trans k).trans (quiet_post _ _ _ _ _ _)).steady.trans (steady_enterRunning _)

theorem steady_finalFailed (s : State) (c : Copy) : Steady s (s.finalFailed c) :=
  (quiet_postAnchorError _ _).steady.trans (steady_failRecovery _ _ _)

theorem steady_recordDone (s : State) (pos : Nat) : Steady s (s.recordDone pos) := by
  unfold State.recordDone
  split
  · exact ((((quiet_makeDurable _ _).trans (quiet_completeClosings _)).trans (quiet_promote _)).trans
      (quiet_wakeWindow _)).steady.trans (steady_stopCheck _)
  · exact Steady.refl s

theorem steady_retryFailed (s : State) (pos : Nat) : Steady s (s.retryFailed pos) := by
  unfold State.retryFailed
  split
  · exact Steady.refl s
  · exact Steady.refl s
  · exact Steady.refl s
  · exact (quiet_post _ _ _ _ _ _).steady.trans (steady_enterFaulted _ _ _)
  · exact steady_enterFaulted _ _ _
  · exact steady_enterFaulted _ _ _

theorem steady_anchorFailed (s : State) (c : Copy) (u : AnchorUse) : Steady s (s.anchorFailed c u) := by
  have q : Quiet s (({ s with log := { s.log with failures := s.log.failures + 1, anchorOp := .idle } } :
      State).postAnchorError c) :=
    (Quiet.log (l := { s.log with failures := s.log.failures + 1, anchorOp := .idle }) rfl (le_refl _)).trans
      (quiet_postAnchorError _ _)
  unfold State.anchorFailed
  dsimp only
  generalize ({ s with log := { s.log with failures := s.log.failures + 1, anchorOp := .idle } } :
      State).postAnchorError c = v at q ⊢
  refine Steady.ite (fun _ => Steady.ite (fun _ => (Quiet.after (Quiet.log (s := v) (l := { v.log with
      anchorOp := .retryWait c (v.now + Config.anchorRetryDelay) u, followUp := false }) rfl (le_refl _)) q).steady) fun _ =>
    q.steady.trans (steady_enterFaulted _ _ _)) fun _ => q.steady

theorem steady_drainDone (s : State) (c : Copy) (a : Anchor) : Steady s (s.drainDone c a) := by
  have q := quiet_adoptAnchor s c a
  unfold State.drainDone
  dsimp only
  generalize s.adoptAnchor c a = t at q ⊢
  exact Steady.ite (fun _ => q.steady) fun _ =>
    (q.trans (quiet_post _ _ _ _ _ _)).steady.trans (steady_enterHalted _)

theorem steady_anchorAnswered (s : State) (b : Bool) : Steady s (s.anchorAnswered b) := by
  unfold State.anchorAnswered
  split
  · exact Steady.refl s
  · exact Steady.refl s
  · split
    · exact Steady.ite (fun _ => steady_anchorFailed _ _ _) fun _ => (quiet_anchorDone _ _ _).steady
    · exact Steady.ite (fun _ => steady_anchorFailed _ _ _) fun _ => steady_drainDone _ _ _
    · exact (quiet_beforeStopAnswered _ _ _ _).steady
    · exact (quiet_stopAnswered _ _ _ _).steady
    · exact Steady.ite (fun _ => (quiet_freshFailed _ _).steady) fun _ => (quiet_freshSecond _ _ _).steady
    · exact Steady.ite (fun _ => (quiet_freshFailed _ _).steady) fun _ => steady_freshDone _ _ _
    · exact Steady.ite (fun _ => steady_finalFailed _ _) fun _ => steady_recovered _ _ _

theorem steady_handError (s : State) (r : Ref) : Steady s (s.handError r) := by
  cases r with
  | biRead pos => exact (quiet_biReadFailed _ _).steady
  | recordWrite pos retry => exact Steady.ite (fun _ => steady_retryFailed _ _) fun _ => (quiet_recordFailed _ _).steady
  | anchorWrite => exact steady_anchorAnswered _ _
  | walkRead pos => exact steady_walkReadFailed _ _
  | restore => exact steady_restoreFailed _
  | scanRead => exact steady_scanFailed _
  | anchorRead c => exact steady_anchorReadFailed _
  | passRead source tag => exact (quiet_passAnswered _ _ _ _).steady
  | passWrite source tag => exact (quiet_passAnswered _ _ _ _).steady
  | dataWrite source tag => exact (quiet_dataFailed _ _ _).steady
  | dropped => exact Steady.refl s
  | preReset => exact Steady.refl s

/-! ### The M-port's table -/

/-- What every command keeps. -/
structure Kept (s t : State) : Prop where
  wf : Memory.wf s.mem = true → Memory.wf t.mem = true
  fits : s.fits → t.fits
  credits : s.creditsKept → t.creditsKept
  pending : t.pending = s.pending

theorem Kept.refl (s : State) : Kept s s := ⟨id, id, id, rfl⟩

theorem Kept.trans {s t u : State} (h : Kept s t) (k : Kept t u) : Kept s u :=
  ⟨fun x => k.wf (h.wf x), fun x => k.fits (h.fits x), fun x => k.credits (h.credits x), k.pending.trans h.pending⟩

/-- Two commands' keeping, the later first. -/
theorem Kept.after {s t u : State} (k : Kept t u) (h : Kept s t) : Kept s u := h.trans k

theorem Kept.ite {s t u : State} {p : Prop} [Decidable p] (h : p → Kept s t) (k : ¬ p → Kept s u) :
    Kept s (if p then t else u) := by
  by_cases hp : p
  · rw [if_pos hp]; exact h hp
  · rw [if_neg hp]; exact k hp

/-- A list filtered by a stronger test is no longer. -/
theorem length_filter_le_of_imp {α : Type} {p q : α → Bool} (l : List α) (h : ∀ x, p x = true → q x = true) :
    (l.filter p).length ≤ (l.filter q).length := by
  simpa only [List.countP_eq_length_filter] using List.countP_mono_left (l := l) fun x _ => h x

theorem held_le {s t : State} (c : Cls) (h : ∀ i, (t.tag i).state ≠ .free →
    (s.tag i).state ≠ .free ∧ (t.tag i).cls = (s.tag i).cls) : t.held c ≤ s.held c := by
  refine length_filter_le_of_imp _ fun i hi => ?_
  simp only [Bool.and_eq_true, decide_eq_true_eq] at hi ⊢
  exact ⟨(h i hi.1).1, (h i hi.1).2 ▸ hi.2⟩

theorem rollbackOut_le {s t : State} (h : ∀ i, (t.tag i).state = .outstanding →
    (s.tag i).state = .outstanding ∧ (t.tag i).cls = (s.tag i).cls) : t.rollbackOut ≤ s.rollbackOut := by
  refine length_filter_le_of_imp _ fun i hi => ?_
  simp only [Bool.and_eq_true, decide_eq_true_eq] at hi ⊢
  exact ⟨(h i hi.1).1, (h i hi.1).2 ▸ hi.2⟩

/-- Tags that only become freer keep the credits. -/
theorem creditsKept_of {s t : State} (h : ∀ i, (t.tag i).state ≠ .free →
      (s.tag i).state ≠ .free ∧ (t.tag i).cls = (s.tag i).cls)
    (k : ∀ i, (t.tag i).state = .outstanding → (s.tag i).state = .outstanding) (c : s.creditsKept) : t.creditsKept :=
  ⟨(Nat.add_le_add (held_le .rollback h) (held_le .traffic h)).trans c.1,
    (rollbackOut_le fun i hi => ⟨k i hi, (h i (by rw [hi]; simp)).2⟩).trans c.2⟩

theorem Steady.kept {s t : State} (h : Steady s t) : Kept s t where
  wf := fun x => h.mem ▸ x
  fits := h.fits
  credits := creditsKept_of (fun i hi => ⟨h.tagState i ▸ hi, h.tagCls i⟩) fun i hi => h.tagState i ▸ hi
  pending := h.pending

theorem kept_settle (s : State) (t : MTag) (a : MemAnswer) : Kept s (s.settle t a) := by
  unfold State.settle
  refine ⟨fun h => MReq.storeTo_wf _ _ _ h, fun h => h, ?_, rfl⟩
  refine creditsKept_of (fun i hi => ?_) fun i hi => ?_
  · rw [State.tag_setTag] at hi ⊢
    split_ifs at hi ⊢ with ht
    · exact absurd rfl hi
    · exact ⟨hi, rfl⟩
  · rw [State.tag_setTag] at hi
    split_ifs at hi with ht
    · cases hi
    · exact hi

theorem kept_countAnswer (s : State) (a : MemAnswer) : Kept s (s.countAnswer a) := (quiet_countAnswer _ _).steady.kept

/-- An answer keeps what its requester's rule keeps. -/
theorem kept_takeAnswer (s : State) (t : MTag) (a : MemAnswer) (wanted : Ref → Bool) (act : State → MReq → State)
    (h : ∀ u q, Kept u (act u q)) : Kept s (s.takeAnswer t a wanted act) := by
  unfold State.takeAnswer
  split
  · exact Kept.refl s
  · exact kept_settle _ _ _
  · exact Kept.ite (fun _ => (kept_settle _ _ _).trans (kept_countAnswer _ _)) fun _ =>
      Kept.ite (fun _ => ((kept_settle _ _ _).trans (kept_countAnswer _ _)).trans (h _ _)) fun _ => Kept.refl s

theorem kept_retire (s : State) (t : MTag) (h : (s.tag t).state = .outstanding) : Kept s (s.retire t) := by
  refine Kept.trans (t := s.setTag t { s.tag t with state := .retired }) ⟨id, id, ?_, rfl⟩
    (quiet_count _ _).steady.kept
  refine creditsKept_of (fun i hi => ?_) fun i hi => ?_
  · rw [State.tag_setTag] at hi ⊢
    split_ifs at hi ⊢ with ht
    · subst ht; exact ⟨by rw [h]; simp, rfl⟩
    · exact ⟨hi, rfl⟩
  · rw [State.tag_setTag] at hi
    by_cases ht : t = i
    · rw [if_pos ht] at hi; simp at hi
    · rwa [if_neg ht] at hi

/-! ### The grant -/

theorem quiet_noteIssued (s : State) (r : Ref) : Quiet s (s.noteIssued r) := by
  cases r <;> first
    | exact Quiet.refl s
    | exact (quiet_setStage _ _ _ _).trans (quiet_promote _)

/-- The tag table after an issue: the granted tag is OUTSTANDING in its class, the others keep state and class. -/
theorem issueTags_get (s : State) (c : Cls) (q : MReq) (t i : MTag) :
    ((s.issueTags c q t)[i]).state = (if t = i then .outstanding else (s.tag i).state) ∧
      ((s.issueTags c q t)[i]).cls = (if t = i then c else (s.tag i).cls) := by
  have note : ∀ e : TagEntry, (TagEntry.noteRace q e).state = e.state ∧ (TagEntry.noteRace q e).cls = e.cls := by
    intro e; unfold TagEntry.noteRace; split <;> exact ⟨rfl, rfl⟩
  unfold State.issueTags
  dsimp only
  by_cases h : t = i
  · subst h; simp
  · have hv : (t : Nat) ≠ (i : Nat) := fun hv => h (Fin.ext hv)
    simp only [h, if_false]
    have : ∀ (v : Vector TagEntry 16) (e : TagEntry), (v.set t e)[i] = v[i] := fun v e =>
      Vector.getElem_set_ne _ _ hv
    rw [this]
    by_cases hq : q.write
    · simp only [hq, if_true]
      have hm : (s.mport.tags.map (TagEntry.noteRace q))[i] = TagEntry.noteRace q s.mport.tags[i] := by simp
      rw [hm]
      exact note _
    · simp only [hq, Bool.false_eq_true, if_false]
      exact ⟨rfl, rfl⟩

/-- The raced places of the tag table after an issue: of a READ now issued, those that some issued and unanswered WRITE
selects; of a READ outstanding before, those noted already and those that a WRITE now issued selects (log 6). -/
theorem issueTags_raced (s : State) (c : Cls) (q : MReq) (t : MTag) (j : Nat) (hj : j < 96) :
    ((s.issueTags c q t)[t].raced.getLsbD j = true ↔
      q.write = false ∧ ∃ i, (s.tag i).state ≠ .free ∧ RacedAt (s.tag i).req q j) ∧
    ∀ i, i ≠ t → ((s.issueTags c q t)[i].raced.getLsbD j = true ↔ (s.tag i).raced.getLsbD j = true ∨
      ((s.tag i).state = .outstanding ∧ (s.tag i).req.write = false ∧ RacedAt q (s.tag i).req j)) := by
  have by_ : ∀ r w : MReq, (racedBy r w).getLsbD j = true ↔ RacedAt w r j := by
    intro r w
    unfold racedBy RacedAt MReq.selects
    simp only [BitVec.getLsbD_ofFnLE, hj, dite_true, Bool.and_eq_true, decide_eq_true_eq, and_assoc]
  have now_ : (s.racedNow q).getLsbD j = true ↔ ∃ i, (s.tag i).state ≠ .free ∧ RacedAt (s.tag i).req q j := by
    have fold : ∀ (l : List MTag) (m : BitVec 96),
        (l.foldl (fun m t => if (s.tag t).state = .free then m else m ||| racedBy q (s.tag t).req) m).getLsbD j = true ↔
          m.getLsbD j = true ∨ ∃ i ∈ l, (s.tag i).state ≠ .free ∧ RacedAt (s.tag i).req q j := by
      intro l
      induction l with
      | nil => simp
      | cons a l ih =>
        intro m
        rw [List.foldl_cons, ih]
        by_cases ha : (s.tag a).state = .free
        · simp [ha]
        · simp [ha, by_, or_assoc]
    have all : ∀ i : MTag, i ∈ allTags := by decide
    unfold State.racedNow
    rw [fold]
    simp [all]
  unfold State.issueTags
  dsimp only
  refine ⟨?_, fun i h => ?_⟩
  · cases hq : q.write <;> simp [now_]
  · have hv : (t : Nat) ≠ (i : Nat) := fun hv => h (Fin.ext hv.symm)
    have : ∀ (v : Vector TagEntry 16) (e : TagEntry), (v.set t e)[i] = v[i] := fun v e =>
      Vector.getElem_set_ne _ _ hv
    rw [this]
    by_cases hq : q.write
    · simp only [hq, if_true]
      have hm : (s.mport.tags.map (TagEntry.noteRace q))[i] = TagEntry.noteRace q s.mport.tags[i] := by simp
      rw [hm]
      unfold TagEntry.noteRace State.tag
      split
      · rename_i h'
        simp only [BitVec.getLsbD_or, Bool.or_eq_true, by_]
        exact or_congr_right ⟨fun x => ⟨h'.1, h'.2, x⟩, fun x => x.2.2⟩
      · rename_i h'
        simp only [iff_self_or]
        exact fun h'' => absurd ⟨h''.1, h''.2.1⟩ h'
    · simp only [hq, Bool.false_eq_true, if_false]
      simp [State.tag, RacedAt, hq]

/-- One more tag is in use after a grant. -/
theorem filter_one_more (t : MTag) (p : MTag → Bool) (h : p t = false) :
    (allTags.filter fun i => decide (i = t) || p i).length = (allTags.filter p).length + 1 := by
  have nodup : allTags.Nodup := by decide
  have mem : ∀ t : MTag, t ∈ allTags := by decide
  have : ∀ l : List MTag, l.Nodup → t ∈ l →
      (l.filter fun i => decide (i = t) || p i).length = (l.filter p).length + 1 := by
    intro l
    induction l with
    | nil => intro _ hm; cases hm
    | cons a l ih =>
      intro hn hm
      obtain ⟨ha, hn⟩ := List.nodup_cons.1 hn
      by_cases hat : a = t
      · subst hat
        have same : l.filter (fun i => decide (i = a) || p i) = l.filter p := by
          apply List.filter_congr
          intro x hx
          have : x ≠ a := fun he => ha (he ▸ hx)
          simp [this]
        simp [h, same]
      · have hm' : t ∈ l := by
          rcases List.mem_cons.1 hm with he | he
          · exact absurd he.symm hat
          · exact he
        have := ih hn hm'
        by_cases hp : p a <;> simp [hat, hp, this]
  exact this _ nodup (mem t)

theorem freeTag_free (s : State) (t : MTag) (h : s.freeTag = some t) : (s.tag t).state = .free := by
  have := List.find?_some h
  simpa using this

/-- The credits hold after a grant that had one (R114). -/
theorem creditsKept_issue {s u : State} (c : Cls) (t : MTag) (hf : (s.tag t).state = .free)
    (hu : ∀ i, (u.tag i).state = (if t = i then .outstanding else (s.tag i).state) ∧
      (u.tag i).cls = (if t = i then c else (s.tag i).cls))
    (hc : s.credit c = true) (k : s.creditsKept) : u.creditsKept := by
  have held : ∀ d, u.held d = s.held d + (if c = d then 1 else 0) := by
    intro d
    by_cases hd : c = d
    · subst hd
      simp only [if_true]
      rw [State.held, State.held, ← filter_one_more t _ (by simp [hf])]
      congr 1
      apply List.filter_congr
      intro i _
      obtain ⟨h1, h2⟩ := hu i
      by_cases hi : t = i
      · subst hi; simp [h1, h2]
      · simp [h1, h2, hi, Ne.symm hi]
    · simp only [hd, if_false]
      rw [State.held, State.held]
      congr 1
      apply List.filter_congr
      intro i _
      obtain ⟨h1, h2⟩ := hu i
      by_cases hi : t = i
      · subst hi; simp [h2, hd, hf]
      · simp [h1, h2, hi]
  have out : u.rollbackOut = s.rollbackOut + (if c = .rollback then 1 else 0) := by
    by_cases hd : c = .rollback
    · subst hd
      simp only [if_true]
      rw [State.rollbackOut, State.rollbackOut, ← filter_one_more t _ (by simp [hf])]
      congr 1
      apply List.filter_congr
      intro i _
      obtain ⟨h1, h2⟩ := hu i
      by_cases hi : t = i
      · subst hi; simp [h1, h2]
      · simp [h1, h2, hi, Ne.symm hi]
    · simp only [hd, if_false]
      rw [State.rollbackOut, State.rollbackOut]
      congr 1
      apply List.filter_congr
      intro i _
      obtain ⟨h1, h2⟩ := hu i
      by_cases hi : t = i
      · subst hi; simp [h2, hd, hf]
      · simp [h1, h2, hi]
  obtain ⟨k1, k2⟩ := k
  unfold State.credit at hc
  refine ⟨?_, ?_⟩
  · rw [held, held]
    cases c <;> simp at hc ⊢ <;> omega
  · rw [out]
    cases c <;> simp at hc ⊢ <;> omega

/-- What the arbiter chooses: a class with a credit, a ready request of it, and a free tag (R114, R115). -/
theorem grantChoice_some (s : State) (c : Cls) (q : MReq) (t : MTag) (h : s.grantChoice = some (c, q, t)) :
    s.settling = false ∧ s.credit c = true ∧ s.oldestReady c = some q ∧ s.freeTag = some t := by
  unfold State.grantChoice at h
  split_ifs at h with hs
  split at h
  · rename_i c' hc
    have he := List.find?_some hc
    split at h
    · rename_i hq ht
      simp only [Option.some.injEq, Prod.mk.injEq] at h
      obtain ⟨rfl, rfl, rfl⟩ := h
      unfold State.eligible at he
      simp only [Bool.and_eq_true] at he
      exact ⟨by simpa using hs, he.1, hq, ht⟩
    · cases h
  · cases h

theorem kept_issue (s : State) (c : Cls) (q : MReq) (t : MTag) (h : s.grantChoice = some (c, q, t)) :
    Kept s (s.issue c q t) := by
  obtain ⟨_, hc, _, ht⟩ := grantChoice_some s c q t h
  unfold State.issue
  dsimp only
  refine Kept.after (quiet_noteIssued _ _).steady.kept ⟨id, fun hf => hf, ?_, rfl⟩
  refine creditsKept_issue c t (freeTag_free s t ht) (fun i => ?_) hc
  have : ∀ p : MPort, (p.setQueue c ((s.mport.queue c).eraseP s.ready)).tags = p.tags := by
    intro p; cases c <;> rfl
  unfold State.tag
  simp only [this]
  exact issueTags_get s c q t i

/-! ### The management link -/

theorem kept_answerLink (s : State) (st : Status) (d : List Byte) : Kept s (s.answerLink st d) :=
  (quiet_answerLink _ _ _).steady.kept

theorem kept_deny (s : State) (st : Status) : Kept s (s.deny st) := kept_answerLink _ _ _

/-- Nothing in the tables, the tags, the memory or the command queue changes. -/
theorem kept_of_eq {s t : State} (h1 : t.mem = s.mem) (h2 : t.host = s.host) (h3 : t.log.window = s.log.window)
    (h4 : t.grp = s.grp) (h5 : t.notes.queue.length ≤ s.notes.queue.length) (h6 : t.mport = s.mport)
    (h7 : t.pending = s.pending) : Kept s t where
  wf := fun x => h1 ▸ x
  fits := fun ⟨a, b, c, d, e, f⟩ =>
    ⟨by rw [h2]; exact a, by rw [h2]; exact b, by rw [h2]; exact c, by rw [h3]; exact d, by rw [h4]; exact e, h5.trans f⟩
  credits := creditsKept_of (fun i hi => by unfold State.tag at hi ⊢; rw [h6] at hi ⊢; exact ⟨hi, rfl⟩)
    fun i hi => by unfold State.tag at hi ⊢; rw [h6] at hi; exact hi
  pending := h7

theorem kept_takeCommand (s : State) (code : Nat) (ps : List Byte) (act : State → State) (h : ∀ u, Kept u (act u)) :
    Kept s (s.takeCommand code ps act) := by
  unfold State.takeCommand
  split
  · exact Kept.refl s
  · exact Kept.after (h _) (kept_of_eq rfl rfl rfl rfl (le_refl _) rfl rfl)

theorem kept_cmdGetRegion (s : State) (n : Nat) : Kept s (s.cmdGetRegion n) := by
  unfold State.cmdGetRegion; split
  · exact kept_answerLink _ _ _
  · exact kept_deny _ _

theorem kept_cmdGetGroup (s : State) (n : Nat) : Kept s (s.cmdGetGroup n) := by
  unfold State.cmdGetGroup; split
  · exact kept_answerLink _ _ _
  · exact kept_deny _ _

theorem kept_cmdPopNotice (s : State) : Kept s s.cmdPopNotice := by
  unfold State.cmdPopNotice
  split
  · exact kept_deny _ _
  · rename_i n rest hq
    exact Kept.after (kept_answerLink _ _ _) (kept_of_eq rfl rfl rfl rfl (by simp [hq]) rfl rfl)

theorem kept_cmdSetLog (s : State) (b e : Nat) : Kept s (s.cmdSetLog b e) := by
  unfold State.cmdSetLog
  split
  · exact kept_deny _ _
  · exact Kept.ite (fun _ => kept_deny _ _) fun _ => Kept.ite (fun _ => kept_deny _ _) fun _ =>
      Kept.ite (fun _ => kept_deny _ _) fun _ =>
        Kept.after (kept_answerLink _ _ _) (kept_of_eq rfl rfl rfl rfl (le_refl _) rfl rfl)

theorem kept_cmdSetRegion (s : State) (p : RegionParams) : Kept s (s.cmdSetRegion p) := by
  unfold State.cmdSetRegion
  split
  · exact kept_deny _ _
  · exact Kept.ite (fun _ => kept_deny _ _) fun _ => Kept.ite (fun _ => kept_deny _ _) fun _ =>
      Kept.ite (fun _ => kept_deny _ _) fun _ =>
        Kept.after (kept_answerLink _ _ _) (kept_of_eq rfl rfl rfl rfl (le_refl _) rfl rfl)

theorem kept_cmdClearRegion (s : State) (n : Nat) : Kept s (s.cmdClearRegion n) := by
  unfold State.cmdClearRegion
  split
  · exact Kept.ite (fun _ => kept_deny _ _) fun _ => Kept.ite (fun _ => kept_deny _ _) fun _ =>
      Kept.ite (fun _ => kept_deny _ _) fun _ =>
        Kept.after (kept_answerLink _ _ _) (kept_of_eq rfl rfl rfl rfl (le_refl _) rfl rfl)
  · exact kept_deny _ _

theorem kept_resumeChange (s : State) (r : ResumePolicy) : Kept s (s.resumeChange r) :=
  Kept.ite (fun _ => Kept.refl s) fun _ =>
    Kept.ite (fun _ => kept_of_eq rfl rfl rfl rfl (le_refl _) rfl rfl) fun _ =>
      Kept.ite (fun _ => (quiet_startResume s).steady.kept) fun _ => Kept.refl s

theorem kept_cmdSetPolicy (s : State) (p : PolicyParams) : Kept s (s.cmdSetPolicy p) := by
  unfold State.cmdSetPolicy
  split
  · exact kept_deny _ _
  · refine Kept.ite (fun _ => kept_deny _ _) fun _ => Kept.ite (fun _ => kept_deny _ _) fun _ => ?_
    refine Kept.trans (Kept.trans ?_ (kept_resumeChange _ _)) ((quiet_lowCompare _).trans (quiet_answerLink _ _ _)).steady.kept
    exact kept_of_eq rfl rfl rfl rfl (le_refl _) rfl rfl

theorem kept_cmdSetNoticeMask (s : State) (n : Nat) : Kept s (s.cmdSetNoticeMask n) :=
  Kept.ite (fun _ => Kept.after (kept_answerLink _ _ _) (kept_of_eq rfl rfl rfl rfl (le_refl _) rfl rfl)) fun _ =>
    kept_deny _ _

theorem kept_cmdClearCounters (s : State) : Kept s s.cmdClearCounters :=
  Kept.ite (fun _ => kept_deny _ _) fun _ => ((quiet_count _ _).trans (quiet_answerLink _ _ _)).steady.kept

theorem kept_cmdSetLock (s : State) (n : Nat) : Kept s (s.cmdSetLock n) := by
  unfold State.cmdSetLock
  split
  · exact Kept.ite (fun _ => kept_deny _ _) fun _ =>
      Kept.after (kept_answerLink _ _ _) (kept_of_eq rfl rfl rfl rfl (le_refl _) rfl rfl)
  · exact kept_deny _ _

theorem steady_openStart (s : State) (m : StartMode) (b : Bridge) : Steady s (s.openStart m b) := by
  have g : Grow .none s s.startClear :=
    { Grow.refl .none s with holds := Nat.zero_le _, claims := Nat.zero_le _, window := Nat.zero_le _ }
  have u : Grow .none s.startClear.forgetRollback
      { s.startClear.forgetRollback with bridge := b, start := some (StartOp.begin m) } := 
    { Grow.refl .none s.startClear.forgetRollback with }
  exact (g.steady_none.trans (quiet_forgetRollback _).steady).trans u.steady_none

theorem quiet_readAnchors (s : State) : Quiet s s.readAnchors := (quiet_readAnchor _ _).trans (quiet_readAnchor _ _)

theorem kept_cmdStartFresh (s : State) : Kept s s.cmdStartFresh := by
  unfold State.cmdStartFresh
  refine Kept.ite (fun _ => kept_deny _ _) fun _ => ?_
  split
  · exact kept_deny _ _
  · exact ((steady_openStart _ _ _).trans (quiet_readAnchors _).steady).kept

theorem kept_cmdStartRecover (s : State) : Kept s s.cmdStartRecover := by
  unfold State.cmdStartRecover
  split
  · exact kept_deny _ _
  · have q := (steady_openStart s .recover .recovering).trans (quiet_answerLink _ .ok []).steady
    exact Kept.ite (fun _ => (q.trans (steady_failRecovery _ _ _)).kept) fun _ => (q.trans (quiet_readAnchors _).steady).kept

theorem kept_cmdStop (s : State) : Kept s s.cmdStop := by
  refine Kept.ite (fun _ => ?_) fun _ => kept_deny _ _
  have h : Steady s { s.dropRetry with bridge := .gated } :=
    (quiet_dropRetry s).steady.trans (Steady.control (o := s.dropRetry.start) (r := s.dropRetry.resumeAt))
  have k := h.trans (steady_redecidePaused _)
  refine Kept.after ?_ k.kept
  dsimp only
  generalize State.redecidePaused _ = t
  unfold State.stopAnchor
  split
  · rename_i c a _ _
    exact (Quiet.log (s := t) (l := { t.log with anchorOp := .writing c a .beforeStop }) rfl (le_refl _)).steady.kept
  · exact (quiet_launchStopAnchor _).steady.kept
  · exact (quiet_launchStopAnchor _).steady.kept

theorem kept_cmdResume (s : State) : Kept s s.cmdResume :=
  Kept.ite (fun _ => ((steady_returnToRunning _ _).trans (quiet_answerLink _ _ _).steady).kept) fun _ => kept_deny _ _

theorem kept_cmdAbandonGroup (s : State) (a b : Nat) : Kept s (s.cmdAbandonGroup a b) := by
  unfold State.cmdAbandonGroup
  split
  · exact kept_deny _ _
  · refine Kept.ite (fun _ => kept_deny _ _) fun _ => Kept.ite (fun _ => kept_deny _ _) fun _ => ?_
    split
    · exact kept_deny _ _
    · exact Kept.ite (fun _ => ((quiet_enterClosing _ _ _ _ _).trans (quiet_answerLink _ _ _)).steady.kept) fun _ =>
        kept_deny _ _

theorem kept_cmdReleaseBroken (s : State) (a b : Nat) : Kept s (s.cmdReleaseBroken a b) := by
  unfold State.cmdReleaseBroken
  split
  · exact kept_deny _ _
  · refine Kept.ite (fun _ => kept_deny _ _) fun _ => Kept.ite (fun _ => kept_deny _ _) fun _ => ?_
    split
    · exact kept_deny _ _
    · exact Kept.ite (fun _ => (quiet_requestClosing _ _ _).steady.kept) fun _ => kept_deny _ _

theorem kept_runCommand (s : State) (code : Nat) (ps : List Byte) : Kept s (s.runCommand code ps) := by
  unfold State.runCommand
  split
  · exact kept_answerLink _ _ _
  · exact kept_answerLink _ _ _
  · exact kept_cmdSetLog _ _ _
  · exact kept_cmdSetRegion _ _
  · exact kept_cmdClearRegion _ _
  · exact kept_cmdGetRegion _ _
  · exact kept_cmdSetPolicy _ _
  · exact kept_answerLink _ _ _
  · exact Kept.ite (fun _ => kept_cmdStartFresh _) fun _ => Kept.ite (fun _ => kept_cmdStartRecover _) fun _ =>
      kept_deny _ _
  · exact kept_cmdStop _
  · exact kept_cmdResume _
  · exact kept_cmdAbandonGroup _ _ _
  · exact kept_cmdReleaseBroken _ _ _
  · exact kept_cmdGetGroup _ _
  · exact kept_cmdPopNotice _
  · exact kept_cmdSetNoticeMask _ _
  · exact kept_answerLink _ _ _
  · exact kept_cmdClearCounters _
  · exact kept_cmdSetLock _ _
  · exact Kept.refl s

theorem kept_judgeFrame (s : State) (st : Status) : Kept s (s.judgeFrame st) :=
  kept_of_eq rfl rfl rfl rfl (le_refl _) rfl rfl

theorem kept_endFrame (s : State) (f : Frame) : Kept s (s.endFrame f) := by
  unfold State.endFrame
  dsimp only
  refine Kept.ite (fun _ => kept_judgeFrame _ _) fun _ => Kept.ite (fun _ => kept_judgeFrame _ _) fun _ =>
    Kept.ite (fun _ => kept_judgeFrame _ _) fun _ => ?_
  split
  · exact kept_judgeFrame _ _
  · exact Kept.ite (fun _ => kept_judgeFrame _ _) fun _ =>
      kept_takeCommand _ _ _ _ fun u => kept_runCommand _ _ _

theorem kept_writeTransfer (s : State) (a : BitVec 7) (bs : List Byte) : Kept s (s.writeTransfer a bs) :=
  Kept.ite (fun _ => kept_endFrame _ _) fun _ => Kept.refl s

/-! ### Power, resets and the tick -/

theorem kept_assertPfw (s : State) : Kept s s.assertPfw := by
  have h : Kept s { s with pfwHigh := s.assertedLevel } := kept_of_eq rfl rfl rfl rfl (le_refl _) rfl rfl
  unfold State.assertPfw
  refine Kept.ite (fun _ => Kept.refl s) fun _ => ?_
  dsimp only
  split
  · exact h.trans (steady_enterDraining _).kept
  · exact h.trans (steady_stopRecovery _).kept
  · exact h.trans (kept_of_eq rfl rfl rfl rfl (le_refl _) rfl rfl)
  · exact h
  · exact h
  · exact h

theorem kept_deassertPfw (s : State) : Kept s s.deassertPfw := by
  have h : Kept s { s with pfwHigh := !s.assertedLevel } := kept_of_eq rfl rfl rfl rfl (le_refl _) rfl rfl
  exact Kept.ite (fun _ => Kept.ite (fun _ => h.trans (quiet_resumeIfAuto _).steady.kept) fun _ => h) fun _ => Kept.refl s

theorem kept_resumeDelayExpiry (s : State) : Kept s s.resumeDelayExpiry := by
  unfold State.resumeDelayExpiry
  split
  · exact Kept.ite (fun _ => (steady_returnToRunning _ _).kept) fun _ => Kept.refl s
  · exact Kept.refl s

theorem kept_warmReset (s : State) : Kept s s.warmReset where
  wf := id
  fits := fun _ => by simp [State.fits, State.warmReset, HostSide.reset, GroupSide.reset, LogSide.reset]
  credits := by
    have h : ∀ i : MTag, ((s.warmReset).tag i).state = (s.tag i).state ∧ ((s.warmReset).tag i).cls = (s.tag i).cls := by
      intro i
      unfold State.tag State.warmReset MPort.warmReset
      simp only [Fin.getElem_fin, Vector.getElem_map]
      split <;> exact ⟨rfl, rfl⟩
    exact creditsKept_of (fun i hi => ⟨(h i).1 ▸ hi, (h i).2⟩) fun i hi => (h i).1 ▸ hi
  pending := rfl

/-- The state after a power-on reset keeps the bounds and the credits. -/
theorem powerOn_credits (straps : Fin 4) (b : Bool) (m : Memory) (p : List Instr) :
    (State.powerOn straps b m p).fits ∧ (State.powerOn straps b m p).creditsKept := by
  refine ⟨by simp [State.fits, State.powerOn, HostSide.reset, GroupSide.reset, LogSide.reset, NoticeUnit.reset], ?_⟩
  have h : ∀ i : MTag, ((State.powerOn straps b m p).tag i).state = .free := by
    intro i; simp [State.tag, State.powerOn, MPort.reset, TagEntry.free]
  constructor
  · simp [State.held, h, Config.sharedTags]
  · simp [State.rollbackOut, h, Config.rollbackTags]

theorem kept_tick (s : State) : Kept s s.tick := by
  have h : Kept s { s with now := s.now + 1 } := kept_of_eq rfl rfl rfl rfl (le_refl _) rfl rfl
  exact Kept.ite (fun _ => Kept.after (Quiet.grp (s := { s with now := s.now + 1 })
    (g := { s.grp with slots := s.grp.slots.map GroupSlot.tick }) (le_refl _)).steady.kept h) fun _ => h

/-! ### Every command -/

/-- Every next state an outcome can be is kept. -/
def OutKept (s : State) (o : Host.Outcome State Fault Refusal) : Prop := ∀ t, o = .next t → Kept s t

theorem out_next {s t : State} (h : Kept s t) : OutKept s (.next t) := fun _ e => by cases e; exact h

/-- What a live command keeps. -/
theorem out_live (s : State) (f : State → State) (h : ∀ u, Kept u (f u)) : OutKept s (live s f) :=
  out_next (Kept.ite (fun _ => h s) fun _ => Kept.refl s)

/-- An answer keeps what the requester's rule keeps. -/
theorem out_answer (s : State) (m : MTag) (a : MemAnswer) (w : State → Ref → Bool) (act : State → State → MReq → State)
    (h : ∀ v u q, Steady u (act v u q)) : OutKept s (live s fun s => s.takeAnswer m a (w s) (act s)) :=
  out_live _ _ fun u => kept_takeAnswer u m a _ _ fun u q => (h _ u q).kept

theorem out_command (s : State) (code : Nat) (ps : List Byte) (act : State → State) (h : ∀ u, Kept u (act u)) :
    OutKept s (live s fun s => s.takeCommand code ps act) :=
  out_live _ _ fun u => kept_takeCommand u code ps act h

theorem kept_execHostRequest (r : Request) (s : State) : OutKept s (execHostRequest r s) := by
  unfold execHostRequest
  refine out_live _ _ fun s => (Kept.ite (fun hl => ?_) fun _ => Kept.refl s)
  refine ⟨id, fun ⟨_, b⟩ => ⟨?_, b⟩, id, rfl⟩
  simpa using hl

theorem kept_execAdmitWrite (s : State) : OutKept s (execAdmitWrite s) := by
  unfold execAdmitWrite
  exact out_live _ _ fun s => (steady_takeNext _ _).kept

theorem kept_execAdmitRead (s : State) : OutKept s (execAdmitRead s) := by
  unfold execAdmitRead
  exact out_live _ _ fun s => (steady_takeNext _ _).kept

theorem kept_execMarkCommit (s : State) : OutKept s (execMarkCommit s) := by
  unfold execMarkCommit
  exact out_live _ _ fun s => (steady_takeNext _ _).kept

theorem kept_execMarkAbandon (s : State) : OutKept s (execMarkAbandon s) := by
  unfold execMarkAbandon
  exact out_live _ _ fun s => (steady_takeNext _ _).kept

theorem kept_execMarkOtherKind (s : State) : OutKept s (execMarkOtherKind s) := by
  unfold execMarkOtherKind
  exact out_live _ _ fun s => (steady_takeNext _ _).kept

theorem kept_execResponseSent (s : State) : OutKept s (execResponseSent s) := by
  unfold execResponseSent
  exact out_live _ _ fun s => (quiet_sendOldest _).steady.kept

theorem kept_execHoldReevaluate (s : State) : OutKept s (execHoldReevaluate s) := by
  unfold execHoldReevaluate
  exact out_live _ _ fun s => (steady_reevaluatePass _ _).kept

theorem kept_execHoldTimeout (source : Source) (tag : ReqTag) (s : State) : OutKept s (execHoldTimeout source tag s) := by
  unfold execHoldTimeout
  exact out_live _ _ fun s => (quiet_holdTimeout _ _ _).steady.kept

theorem kept_execIdleExpiry (i : SlotNo) (s : State) : OutKept s (execIdleExpiry i s) := by
  unfold execIdleExpiry
  exact out_live _ _ fun s => (quiet_expireIdle _ _).steady.kept

theorem kept_execClosingRecordAllocate (s : State) : OutKept s (execClosingRecordAllocate s) := by
  unfold execClosingRecordAllocate
  refine out_live _ _ fun s => ?_
  by_cases hw : s.log.window.length < Config.windowDepth
  · exact ((grow_allocateDue s).steady fun hf =>
      (grow_allocateDue s).fits hf hf.2.1 hf.2.2.1 hw hf.2.2.2.2.1).kept
  · have : s.allocateDue = s := by
      unfold State.allocateDue
      split
      · rfl
      · rw [if_neg fun hh => hw hh.2]
    rw [this]; exact Kept.refl s

theorem kept_execMportGrant (s : State) : OutKept s (execMportGrant s) := by
  unfold execMportGrant
  split_ifs
  · split
    · exact out_next (Kept.refl s)
    · rename_i hg
      split_ifs
      · exact out_next (kept_issue _ _ _ _ hg)
      · exact fun _ e => nomatch e
  · exact out_next (Kept.refl s)

theorem kept_execResponseLimitExpiry (t : MTag) (s : State) : OutKept s (execResponseLimitExpiry t s) := by
  unfold execResponseLimitExpiry
  refine out_live _ _ fun s => (Kept.ite (fun hl => ?_) fun _ => Kept.refl s)
  exact (kept_retire _ _ hl.1).trans (steady_handError _ _).kept

theorem kept_execLateResponse (t : MTag) (a : MemAnswer) (s : State) : OutKept s (execLateResponse t a s) := by
  unfold execLateResponse
  exact out_live _ _ fun s => (Kept.ite (fun _ => kept_settle _ _ _) fun _ => Kept.refl s)

theorem kept_execPreResetResponse (t : MTag) (a : MemAnswer) (s : State) : OutKept s (execPreResetResponse t a s) := by
  unfold execPreResetResponse
  exact out_answer _ _ _ _ _ (fun _ u _ => Steady.refl u)

theorem kept_execBiReadDone (t : MTag) (raced : List Byte) (s : State) : OutKept s (execBiReadDone t raced s) := by
  unfold execBiReadDone
  refine out_answer _ _ _ _ _ fun v u q => ?_
  split
  · exact (quiet_biReadDone _ _ _).steady
  · exact Steady.refl u

theorem kept_execBiReadFailed (t : MTag) (s : State) : OutKept s (execBiReadFailed t s) := by
  unfold execBiReadFailed
  refine out_answer _ _ _ _ _ fun v u q => ?_
  split
  · exact (quiet_biReadFailed _ _).steady
  · exact Steady.refl u

theorem kept_execRecordWriteDone (t : MTag) (s : State) : OutKept s (execRecordWriteDone t s) := by
  unfold execRecordWriteDone
  refine out_answer _ _ _ _ _ fun v u q => ?_
  split
  · exact steady_recordDone _ _
  · exact Steady.refl u

theorem kept_execRecordWriteFailed (t : MTag) (landed : BitVec 96) (s : State) : OutKept s (execRecordWriteFailed t landed s) := by
  unfold execRecordWriteFailed
  refine out_answer _ _ _ _ _ fun v u q => ?_
  split
  · exact (quiet_recordFailed _ _).steady
  · exact Steady.refl u

theorem kept_execRecordRetryFailed (t : MTag) (landed : BitVec 96) (s : State) : OutKept s (execRecordRetryFailed t landed s) := by
  unfold execRecordRetryFailed
  refine out_answer _ _ _ _ _ fun v u q => ?_
  split
  · exact steady_retryFailed _ _
  · exact Steady.refl u

theorem kept_execDataWriteDone (t : MTag) (s : State) : OutKept s (execDataWriteDone t s) := by
  unfold execDataWriteDone
  refine out_answer _ _ _ _ _ fun v u q => ?_
  split
  · exact (quiet_dataDone _ _ _).steady
  · exact Steady.refl u

theorem kept_execDataWriteFailed (t : MTag) (landed : BitVec 96) (s : State) : OutKept s (execDataWriteFailed t landed s) := by
  unfold execDataWriteFailed
  refine out_answer _ _ _ _ _ fun v u q => ?_
  split
  · exact (quiet_dataFailed _ _ _).steady
  · exact Steady.refl u

theorem kept_execPassReadAnswered (t : MTag) (a : MemAnswer) (s : State) : OutKept s (execPassReadAnswered t a s) := by
  unfold execPassReadAnswered
  refine out_answer _ _ _ _ _ fun v u q => ?_
  split
  · exact (quiet_passAnswered _ _ _ _).steady
  · exact Steady.refl u

theorem kept_execPassWriteAnswered (t : MTag) (a : MemAnswer) (s : State) : OutKept s (execPassWriteAnswered t a s) := by
  unfold execPassWriteAnswered
  refine out_answer _ _ _ _ _ fun v u q => ?_
  split
  · exact (quiet_passAnswered _ _ _ _).steady
  · exact Steady.refl u

theorem kept_execAnchorWriteDone (t : MTag) (s : State) : OutKept s (execAnchorWriteDone t s) := by
  unfold execAnchorWriteDone
  exact out_answer _ _ _ _ _ (fun _ u _ => steady_anchorAnswered _ _)

theorem kept_execAnchorWriteFailed (t : MTag) (landed : BitVec 96) (s : State) : OutKept s (execAnchorWriteFailed t landed s) := by
  unfold execAnchorWriteFailed
  exact out_answer _ _ _ _ _ (fun _ u _ => steady_anchorAnswered _ _)

theorem kept_execAnchorRetry (s : State) : OutKept s (execAnchorRetry s) := by
  unfold execAnchorRetry
  exact out_live _ _ fun s => (quiet_anchorRetry _).steady.kept

theorem kept_execRollbackTakeSlot (s : State) : OutKept s (execRollbackTakeSlot s) := by
  unfold execRollbackTakeSlot
  exact out_live _ _ fun s => (quiet_takeSlot _).steady.kept

theorem kept_execWalkReadAnswered (t : MTag) (a : MemAnswer) (s : State) : OutKept s (execWalkReadAnswered t a s) := by
  unfold execWalkReadAnswered
  refine out_answer _ _ _ _ _ fun v u q => ?_
  split
  · exact Steady.ite (fun _ => steady_walkReadFailed _ _) fun _ => steady_walkReadDone _ _
  · exact Steady.refl u

theorem kept_execRestoreAnswered (t : MTag) (a : MemAnswer) (s : State) : OutKept s (execRestoreAnswered t a s) := by
  unfold execRestoreAnswered
  exact out_answer _ _ _ _ _ (fun _ u _ => Steady.ite (fun _ => steady_restoreFailed _) fun _ => steady_restoreDone _)

theorem kept_execPfwAssert (s : State) : OutKept s (execPfwAssert s) := by
  unfold execPfwAssert
  exact out_live _ _ fun s => (kept_assertPfw _)

theorem kept_execPfwDeassert (s : State) : OutKept s (execPfwDeassert s) := by
  unfold execPfwDeassert
  exact out_live _ _ fun s => (kept_deassertPfw _)

theorem kept_execDrainEnd (s : State) : OutKept s (execDrainEnd s) := by
  unfold execDrainEnd
  exact out_live _ _ fun s => (Kept.ite (fun _ => (quiet_launchDrainAnchor _).steady.kept) fun _ => Kept.refl s)

theorem kept_execDrainDone (t : MTag) (s : State) : OutKept s (execDrainDone t s) := by
  unfold execDrainDone
  exact out_answer _ _ _ _ _ (fun _ u _ => steady_anchorAnswered _ _)

theorem kept_execResumeDelayExpiry (s : State) : OutKept s (execResumeDelayExpiry s) := by
  unfold execResumeDelayExpiry
  exact out_live _ _ fun s => (kept_resumeDelayExpiry _)

theorem kept_execWarmReset (s : State) : OutKept s (execWarmReset s) := by
  unfold execWarmReset
  exact out_live _ _ fun s => (kept_warmReset _)

theorem kept_execPowerOnReset (straps : Fin 4) (pfwHigh : Bool) (landed : List (BitVec 96)) (s : State) : OutKept s (execPowerOnReset straps pfwHigh landed s) := by
  unfold execPowerOnReset
  exact out_next ⟨State.landIssued_wf s landed, fun _ => (powerOn_credits _ _ _ _).1,
    fun _ => (powerOn_credits _ _ _ _).2, rfl⟩

theorem kept_execAnchorReadAnswered (t : MTag) (a : MemAnswer) (s : State) : OutKept s (execAnchorReadAnswered t a s) := by
  unfold execAnchorReadAnswered
  refine out_answer _ _ _ _ _ fun v u q => ?_
  split
  · exact Steady.ite (fun _ => steady_anchorReadFailed _) fun _ => steady_anchorReadDone _ _ _
  · exact Steady.refl u

theorem kept_execFreshAnchorAnswered (t : MTag) (a : MemAnswer) (s : State) : OutKept s (execFreshAnchorAnswered t a s) := by
  unfold execFreshAnchorAnswered
  exact out_answer _ _ _ _ _ (fun _ u _ => steady_anchorAnswered _ _)

theorem kept_execScanReadAnswered (t : MTag) (a : MemAnswer) (s : State) : OutKept s (execScanReadAnswered t a s) := by
  unfold execScanReadAnswered
  exact out_answer _ _ _ _ _ (fun _ u _ => Steady.ite (fun _ => steady_scanFailed _) fun _ => steady_scanDone _ _)

theorem kept_execRecoveryFinalAnchor (s : State) : OutKept s (execRecoveryFinalAnchor s) := by
  unfold execRecoveryFinalAnchor
  refine out_live _ _ fun s => ?_
  split
  · exact Kept.ite (fun _ => (quiet_finalAnchor _ _).steady.kept) fun _ => Kept.refl s
  · exact Kept.refl s

theorem kept_execRecoveryDone (t : MTag) (a : MemAnswer) (s : State) : OutKept s (execRecoveryDone t a s) := by
  unfold execRecoveryDone
  exact out_answer _ _ _ _ _ (fun _ u _ => steady_anchorAnswered _ _)

theorem kept_execStopAnchorAnswered (t : MTag) (a : MemAnswer) (s : State) : OutKept s (execStopAnchorAnswered t a s) := by
  unfold execStopAnchorAnswered
  exact out_answer _ _ _ _ _ (fun _ u _ => steady_anchorAnswered _ _)

theorem kept_execCommandFrame (address : BitVec 7) (bytes : List Byte) (s : State) : OutKept s (execCommandFrame address bytes s) := by
  unfold execCommandFrame
  exact out_live _ _ fun s => (kept_writeTransfer _ _ _)

theorem kept_execGetIdent (s : State) : OutKept s (execGetIdent s) := by
  unfold execGetIdent
  exact out_command _ _ _ _ (fun u => kept_answerLink _ _ _)

theorem kept_execGetState (s : State) : OutKept s (execGetState s) := by
  unfold execGetState
  exact out_command _ _ _ _ (fun u => kept_answerLink _ _ _)

theorem kept_execSetLog (base exponent : Nat) (s : State) : OutKept s (execSetLog base exponent s) := by
  unfold execSetLog
  exact out_command _ _ _ _ (fun u => kept_cmdSetLog _ _ _)

theorem kept_execSetRegion (p : RegionParams) (s : State) : OutKept s (execSetRegion p s) := by
  unfold execSetRegion
  exact out_command _ _ _ _ (fun u => kept_cmdSetRegion _ _)

theorem kept_execClearRegion (index : Nat) (s : State) : OutKept s (execClearRegion index s) := by
  unfold execClearRegion
  exact out_command _ _ _ _ (fun u => kept_cmdClearRegion _ _)

theorem kept_execGetRegion (index : Nat) (s : State) : OutKept s (execGetRegion index s) := by
  unfold execGetRegion
  exact out_command _ _ _ _ (fun u => kept_cmdGetRegion _ _)

theorem kept_execSetPolicy (p : PolicyParams) (s : State) : OutKept s (execSetPolicy p s) := by
  unfold execSetPolicy
  exact out_command _ _ _ _ (fun u => kept_cmdSetPolicy _ _)

theorem kept_execGetPolicy (s : State) : OutKept s (execGetPolicy s) := by
  unfold execGetPolicy
  exact out_command _ _ _ _ (fun u => kept_answerLink _ _ _)

theorem kept_execStartFresh (s : State) : OutKept s (execStartFresh s) := by
  unfold execStartFresh
  exact out_command _ _ _ _ (fun u => kept_cmdStartFresh _)

theorem kept_execStartRecover (s : State) : OutKept s (execStartRecover s) := by
  unfold execStartRecover
  exact out_command _ _ _ _ (fun u => kept_cmdStartRecover _)

theorem kept_execStop (s : State) : OutKept s (execStop s) := by
  unfold execStop
  exact out_command _ _ _ _ (fun u => kept_cmdStop _)

theorem kept_execResume (s : State) : OutKept s (execResume s) := by
  unfold execResume
  exact out_command _ _ _ _ (fun u => kept_cmdResume _)

theorem kept_execAbandonGroup (source group : Nat) (s : State) : OutKept s (execAbandonGroup source group s) := by
  unfold execAbandonGroup
  exact out_command _ _ _ _ (fun u => kept_cmdAbandonGroup _ _ _)

theorem kept_execReleaseBroken (source group : Nat) (s : State) : OutKept s (execReleaseBroken source group s) := by
  unfold execReleaseBroken
  exact out_command _ _ _ _ (fun u => kept_cmdReleaseBroken _ _ _)

theorem kept_execGetGroup (slot : Nat) (s : State) : OutKept s (execGetGroup slot s) := by
  unfold execGetGroup
  exact out_command _ _ _ _ (fun u => kept_cmdGetGroup _ _)

theorem kept_execPopNotice (s : State) : OutKept s (execPopNotice s) := by
  unfold execPopNotice
  exact out_command _ _ _ _ (fun u => kept_cmdPopNotice _)

theorem kept_execSetNoticeMask (mask : Nat) (s : State) : OutKept s (execSetNoticeMask mask s) := by
  unfold execSetNoticeMask
  exact out_command _ _ _ _ (fun u => kept_cmdSetNoticeMask _ _)

theorem kept_execGetCounters (s : State) : OutKept s (execGetCounters s) := by
  unfold execGetCounters
  exact out_command _ _ _ _ (fun u => kept_answerLink _ _ _)

theorem kept_execClearCounters (s : State) : OutKept s (execClearCounters s) := by
  unfold execClearCounters
  exact out_command _ _ _ _ (fun u => kept_cmdClearCounters _)

theorem kept_execSetLock (level : Nat) (s : State) : OutKept s (execSetLock level s) := by
  unfold execSetLock
  exact out_command _ _ _ _ (fun u => kept_cmdSetLock _ _)

theorem kept_execPowerLoss (landed : List (BitVec 96)) (s : State) : OutKept s (execPowerLoss landed s) := by
  unfold execPowerLoss
  refine out_live _ _ fun s => ⟨State.landIssued_wf s landed, fun _ => ?_, fun _ => ?_, rfl⟩
  · exact (powerOn_credits s.link.straps s.pfwHigh (s.landIssued landed) s.pending).1
  · exact (powerOn_credits s.link.straps s.pfwHigh (s.landIssued landed) s.pending).2

end Sys2Proof.Machine
end

