-- ==== Sys2Proof/WellFormed.lean ====
section
/-! DEFINITION. WellFormed: what the lanes and the frames can carry. A command the hardware can be given is well
formed; every meaning is total, so an ill-formed term runs too, but stands for no event of the part. -/

namespace Sys2Proof

/-- A request as the H-port's lanes carry it (R25): 64 data bytes. -/
def Request.wellFormed (r : Request) : Bool :=
  match r.body with
  | .read _ len => decide (len < 128)
  | .write _ _ data _ => decide (data.length = 64)
  | .mark _ _ => true

/-- A READ's answer holds at most the 96 bytes of the longest span (R110). -/
def MemAnswer.wellFormed : MemAnswer → Bool
  | .done raced => decide (raced.length ≤ 96)
  | .error _ => true

/-- SET_REGION's parameters fit the bytes of its frame (spec 12.3). -/
def RegionParams.wellFormed (p : RegionParams) : Bool :=
  decide (p.index < 2 ^ 8 ∧ p.base < 2 ^ 64 ∧ p.size < 2 ^ 64 ∧ p.cls < 2 ^ 8 ∧ p.policy < 2 ^ 8)

/-- SET_POLICY's parameters fit the bytes of its frame (spec 12.3). -/
def PolicyParams.wellFormed (p : PolicyParams) : Bool :=
  decide (p.holdPolicy < 2 ^ 8 ∧ p.holdLimit < 2 ^ 16 ∧ p.idleLimit < 2 ^ 16 ∧ p.idleAction < 2 ^ 8 ∧
    p.lowWater < 2 ^ 32 ∧ p.resumePolicy < 2 ^ 8 ∧ p.resumeDelay < 2 ^ 8 ∧ p.polarity < 2 ^ 8)

/-- The operands of a command fit what carries them. -/
def Instr.wellFormed : Instr → Bool
  | .hostRequest r => r.wellFormed
  | .lateResponse _ a | .preResetResponse _ a | .passReadAnswered _ a | .passWriteAnswered _ a
  | .walkReadAnswered _ a | .restoreAnswered _ a | .anchorReadAnswered _ a | .freshAnchorAnswered _ a
  | .scanReadAnswered _ a | .recoveryDone _ a | .stopAnchorAnswered _ a => a.wellFormed
  | .biReadDone _ raced => decide (raced.length ≤ 64)
  | .powerOnReset _ _ landed | .powerLoss landed => decide (landed.length ≤ 16)
  | .setLog base k => decide (base < 2 ^ 64 ∧ k < 2 ^ 8)
  | .setRegion p => p.wellFormed
  | .setPolicy p => p.wellFormed
  | .clearRegion n | .getRegion n | .getGroup n | .setNoticeMask n | .setLock n => decide (n < 2 ^ 8)
  | .abandonGroup s g | .releaseBroken s g => decide (s < 2 ^ 8 ∧ g < 2 ^ 8)
  | .admitWrite | .admitRead | .markCommit | .markAbandon | .responseSent | .holdReevaluate | .holdTimeout _ _
  | .idleExpiry _ | .closingRecordAllocate | .mportGrant | .responseLimitExpiry _ | .biReadFailed _
  | .recordWriteDone _ | .recordWriteFailed _ _ | .recordRetryFailed _ _ | .dataWriteDone _ | .dataWriteFailed _ _
  | .anchorWriteDone _ | .anchorWriteFailed _ _ | .anchorRetry | .rollbackTakeSlot | .pfwAssert | .pfwDeassert
  | .drainEnd | .drainDone _ | .resumeDelayExpiry | .warmReset | .recoveryFinalAnchor | .commandFrame _ _
  | .getIdent | .getState | .getPolicy | .startFresh | .startRecover | .stop | .resume | .popNotice | .getCounters
  | .clearCounters | .markOtherKind => true

end Sys2Proof
end

