-- ==== Sys2Proof/Tests/Slice0.lean ====
section
/-! SUPPORT. Tests: ill-formed commands, small checks of the meanings against values worked out by hand from the rules,
and for each statement a state and operands that meet its hypotheses. -/

set_option Elab.async false

namespace Sys2Proof.Tests

open Sys2Proof Sys2Proof.Machine

/-! ### States to test on -/

/-- The state a row leaves. -/
def after (c : Instr) (s : State) : State :=
  match exec c s with
  | .next t => t
  | _ => s

/-- A running part: a log of 128 ring slots at address 0 under an ACTIVE anchor with tail 0, lines 0x4000 and on JOURNALED
(policy REFUSE), lines 0x4040 and on JOURNALED (PASS_UNLOGGED), lines 0x4080 and on READ_ONLY, every other line PASS. -/
def up : State :=
  { State.reset with
    bridge := .running
    regions := ((State.reset.regions.set 0 ⟨true, 0x100000, 4096, .journaled, .refuse⟩).set 1
      ⟨true, 0x101000, 4096, .journaled, .passUnlogged⟩).set 2 ⟨true, 0x102000, 4096, .readOnly, .refuse⟩
    log := { State.reset.log with geometry := some ⟨0, 7⟩, gen := 1, newest := some ⟨.a, 1, .active, 0⟩ } }

/-- The part in another bridge state. -/
def at_ (b : Bridge) : State := { up with bridge := b }

/-- The intake holds this request and nothing else. -/
def asks (s : State) (r : Request) : State := { s with host := { s.host with intake := [⟨r, false⟩] } }

/-- 64 bytes of data. -/
def bytes64 : List Byte := List.replicate 64 0xAB

/-- A WRITE of source 2 and tag 0 to a line, all 64 bytes or those of the mask. -/
def writeTo (line : BitVec 30) (g : GroupNo) (mask : BitVec 64 := BitVec.allOnes 64) : Request :=
  ⟨2, 0, .write line mask bytes64 g⟩

/-- A READ of source 2 and tag 0. -/
def readAt (a : BitVec 36) (len : Nat) : Request := ⟨2, 0, .read a len⟩

/-- A MARK of source 2 and tag 0 for its group 1. -/
def markFor (k : MarkKind) : Request := ⟨2, 0, .mark 1 k⟩

/-- Group slot 0 holds group 1 of source 2 in this state, with one record at position 10 and nothing in flight. -/
def slotAs (st : SlotState) : GroupSlot :=
  { GroupSlot.free with state := st, key := ⟨2, 1⟩, first := 10, newest := 10, records := 1, claims := 1 }

/-- The part with a group slot. -/
def withSlot (s : State) (g : GroupSlot) : State := { s with grp := { s.grp with slots := s.grp.slots.set 0 g } }

/-- Line 0x4000 is claimed by slot 0 with this logged mask. -/
def claimed (s : State) (mask : BitVec 64) : State := { s with grp := { s.grp with claims := [⟨0x4000, 0, mask⟩] } }

/-- M-port tag 0 is OUTSTANDING with this request. -/
def awaiting (s : State) (q : MReq) : State := s.setTag 0 ⟨.outstanding, q.ref.cls, q, 4000, 0⟩

/-- A READ request of the M-port. -/
def readOf (r : Ref) (addr len : Nat) : MReq := ⟨r, false, addr, len, 0, []⟩

/-- A WRITE request of the M-port that selects all its bytes. -/
def writeOf (r : Ref) (addr len : Nat) : MReq := ⟨r, true, addr, len, spanMask 96 0 len, List.replicate len 0xCD⟩

/-- The part holds these in-flight entries. -/
def flying (s : State) (es : List Inflight) : State := { s with host := { s.host with inflight := es } }

/-- The append window holds these records. -/
def windowed (s : State) (hs : List Header) (head : Nat) : State :=
  { s with log := { s.log with window := hs, head := head } }

/-- The BEFORE of a whole line at a position, of group 1 of source 2. -/
def before (pos : Nat) : Header := ⟨.before, 3, ⟨2, 1⟩, false, pos, 1, 0, 0x4000, 0, 64, 0⟩

/-- The COMMIT record of that group at a position. -/
def commitRec (pos : Nat) : Header := ⟨.commit, 1, ⟨2, 1⟩, false, pos, 1, pos - 10, 0, 0, 0, 1⟩

/-- The journaled write of that group whose record stands at position 10. -/
def theWrite (st : Stage) : Inflight := ⟨2, 0, .journaled 0x4000 (BitVec.allOnes 64) bytes64 0 (some ⟨10, 0, 64⟩), st⟩

/-- A held request of source 2 and tag 3 to line 0x4000, with deadline 500. -/
def heldWrite (why : HoldReason) (marked : Bool) : Hold := ⟨⟨2, 3, .write 0x4000 1 bytes64 1⟩, why, 500, none, marked⟩

/-- The hold list holds these entries. -/
def holding (s : State) (hs : List Hold) : State := { s with host := { s.host with holds := hs } }

/-- The anchor operation is this one. -/
def anchoring (s : State) (op : AnchorOp) : State := { s with log := { s.log with anchorOp := op } }

/-- An anchor with serial 2 and tail 0. -/
def someAnchor (st : AnchorState) : Anchor := ⟨2, 1, st, 7, 0⟩

/-- A START in progress at a phase, with scan position and tail 20. -/
def starting (m : StartMode) (p : StartPhase) : StartOp := ⟨m, p, .invalid, .pending, 5, 20, 20, 0, 0, false⟩

/-- Memory that holds these bytes from an address on. -/
def memoryOf (a : Nat) (bs : List Byte) : Memory := (List.range bs.length).foldl (fun m i => m.set (a + i) (bs.getD i 0)) []

/-! ### Ill-formed commands are refused by the check -/

theorem smoke_read_length : (Instr.hostRequest ⟨0, 0, .read 0 128⟩).wellFormed = false := by decide
theorem smoke_write_data : (Instr.hostRequest ⟨0, 0, .write 0 1 (List.replicate 63 0) 1⟩).wellFormed = false := by
  decide
theorem smoke_answer : (Instr.walkReadAnswered 0 (.done (List.replicate 97 0))).wellFormed = false := by decide
theorem smoke_before_image : (Instr.biReadDone 0 (List.replicate 65 0)).wellFormed = false := by decide
theorem smoke_landed : (Instr.powerLoss (List.replicate 17 0)).wellFormed = false := by decide
theorem smoke_setLog : (Instr.setLog 0 256).wellFormed = false := by decide
theorem smoke_setRegion : (Instr.setRegion ⟨256, 0, 0, 1, 1⟩).wellFormed = false := by decide
theorem smoke_setPolicy : (Instr.setPolicy ⟨1, 65536, 0, 1, 0, 1, 1, 1⟩).wellFormed = false := by decide
theorem smoke_index : (Instr.getRegion 256).wellFormed = false := by decide
theorem smoke_key : (Instr.abandonGroup 256 1).wellFormed = false := by decide

/-! ### Values worked out by hand from the rules -/

/-- The CRC-32C of the nine digits is E3069283 hexadecimal (the published check value; R8). -/
theorem test_crc32c : crc32c [0x31, 0x32, 0x33, 0x34, 0x35, 0x36, 0x37, 0x38, 0x39] = 0xE3069283 := by decide +kernel

/-- No word spells a command: the table gives no row any bits. -/
theorem test_no_bits : Sys2Proof.decodeTableWord 8 1 = none ∧ up.withFetchWord 8 1 = up := by decide +kernel

/-- 1.11: with k = 7, head 254 and persisted tail 200, G2 open from 200. -/
def ringEnd : State :=
  let g2 : GroupSlot := { GroupSlot.free with state := .opened, key := ⟨1, 3⟩, first := 200, newest := 200, records := 1 }
  { up with
    grp := { up.grp with slots := up.grp.slots.set 0 g2 }
    log := { up.log with head := 254, volatileTail := 200, persistedTail := 200, newest := some ⟨.a, 1, .active, 200⟩ } }

/-- 1.11: G1's first write, 40 bytes, gets a PAD at 254 and a BEFORE at 256; 69 ring slots stay free. -/
theorem test_ring_end :
    let t := after .admitWrite (asks ringEnd (writeTo 0x4000 5 (spanMask 64 0 40)))
    t.log.window.map (fun h => (h.kind, h.pos, h.slots)) = [(.pad, 254, 2), (.before, 256, 3)] ∧ t.log.head = 259 ∧
      t.freeSlots = 69 ∧ t.frontier = 254 := by decide +kernel

/-- 1.11: with 256 and 259 in the window, 259 durable leaves the frontier at 256, then 256 durable moves it to the head. -/
theorem test_frontier :
    let w : Header := { before 256 with count := 40 }
    let v : Header := { before 259 with slots := 2, back := 3, line := 0x4001, first := 48, count := 16 }
    let s := awaiting (windowed up [w, v] 261) (writeOf (.recordWrite 259 false) 0 64)
    (after (.recordWriteDone 0) s).frontier = 256 ∧
      (after (.recordWriteDone 0) (awaiting (windowed up [w] 261) (writeOf (.recordWrite 256 false) 0 96))).frontier = 261 := by
  decide +kernel

/-- 1.11: the COMMIT record at 261 has back distance 261 - 256 = 5 and record count 2; the head becomes 262. -/
theorem test_commit_record :
    let g : GroupSlot := { GroupSlot.free with state := .committing, key := ⟨2, 5⟩, first := 256, newest := 259, records := 2 }
    let s := withSlot { up with log := { up.log with head := 261, due := [⟨0, .commit⟩], persistedTail := 200 } } g
    let t := after .closingRecordAllocate s
    t.log.window = [⟨.commit, 1, ⟨2, 5⟩, false, 261, 1, 5, 0, 0, 0, 2⟩] ∧ t.log.head = 262 ∧ t.freeSlots = 66 := by
  decide +kernel

/-- 13.1: the COMMIT at 5 completes; slot 0 is FREE, the notice has count 2 and position 5, and with the volatile tail 6
above the persisted tail 0 an ACTIVE anchor with serial 4 goes to copy A. -/
theorem test_commit_completes :
    let g : GroupSlot := { GroupSlot.free with
      state := .committing, key := ⟨0, 1⟩, newest := 3, records := 2, claims := 2, cause := some .mark, closing := some 5 }
    let c : Header := ⟨.commit, 1, ⟨0, 1⟩, false, 5, 1, 5, 0, 0, 0, 2⟩
    let s := withSlot (windowed up [c] 6) g
    let r := { s with log := { s.log with newest := some ⟨.b, 3, .active, 0⟩ } }
    let t := after (.recordWriteDone 0) (awaiting r (writeOf (.recordWrite 5 false) 288 32))
    t.slot 0 = GroupSlot.free ∧ t.log.anchorOp = .writing .a ⟨4, 1, .active, 7, 6⟩ .running ∧
      t.notes.queue = [⟨.groupCommitted, 0, 0, ⟨0, 1⟩, .cause .mark, 2, 5⟩] ∧ t.notes.irqLow = false := by decide +kernel

/-- 13.3: W3's before-image read fails; its record 131 becomes a VOID and RECORD_VOIDED has count 8 and position 131. -/
theorem test_void :
    let h : Header := ⟨.before, 2, ⟨2, 4⟩, false, 131, 1, 3, 0x3002, 32, 8, 0⟩
    let e : Inflight := ⟨2, 3, .journaled 0x3002 (spanMask 64 32 8) bytes64 0 (some ⟨131, 32, 8⟩), .biRead⟩
    let s := awaiting (windowed (flying (withSlot up { slotAs .opened with inflight := 1 }) [e]) [h] 133)
      (readOf (.biRead 131) 0xC00A0 8)
    let t := after (.biReadFailed 0) s
    t.log.window = [{ h with kind := .void }] ∧ (t.slot 0).inflight = 0 ∧ (t.slot 0).damaged = false ∧
      t.notes.queue.map (fun n => (n.kind, n.detail, n.count, n.position)) = [(.recordVoided, .readError, 8, 131)] := by
  decide +kernel

/-- 13.3: the walk passes over the VOID at 131, whose back distance 3 leads to 128. -/
theorem test_walk_over_void :
    let g : GroupSlot := { GroupSlot.free with state := .rollingBack, key := ⟨2, 4⟩, first := 124, newest := 131, records := 3 }
    let h : Header := ⟨.void, 2, ⟨2, 4⟩, false, 131, 1, 3, 0x3002, 32, 8, 0⟩
    let s := { withSlot up g with mem := memoryOf 96 h.bytes }
    let r := { s with grp := { s.grp with walk := some ⟨0, 131, .reading, .none⟩ } }
    let t := after (.walkReadAnswered 0 (.done [])) (awaiting r (readOf (.walkRead 131) 96 32))
    t.grp.walk = some ⟨0, 128, .reading, .none⟩ ∧ t.mport.rollbackQ.map (·.ref) = [.walkRead 128] := by decide +kernel

/-- 13.4: with one group left in use the drain anchor goes to copy B, serial 11, ACTIVE with tail 40. -/
theorem test_drain_anchor :
    let s := withSlot (at_ .draining) { slotAs .opened with first := 40, newest := 42 }
    let r := { s with log := { s.log with gen := 3, head := 44, volatileTail := 40, newest := some ⟨.a, 10, .active, 40⟩ } }
    (after .drainEnd r).log.anchorOp = .writing .b ⟨11, 3, .active, 7, 40⟩ .drain := by decide +kernel

/-- 13.4: the scan finds the BEFORE of 5/1 at 40 and opens slot 0. -/
theorem test_scan_opens :
    let h : Header := ⟨.before, 2, ⟨5, 1⟩, false, 40, 3, 0, 0x4000, 0, 32, 0⟩
    let o : StartOp := ⟨.recover, .scan, .invalid, .invalid, 3, 40, 40, 0, 0, false⟩
    let s := { at_ .recovering with mem := memoryOf (128 + 32 * 40) (h.bytesWith (List.replicate 32 0xEE)), start := some o }
    let r := { s with log := { s.log with gen := 3, head := 40, persistedTail := 40 } }
    let t := after (.scanReadAnswered 0 (.done [])) (awaiting r (readOf .scanRead (128 + 32 * 40) 96))
    t.slot 0 = ⟨.opened, ⟨5, 1⟩, 40, 40, 1, 0, 0, none, false, none, none, none⟩ ∧
      t.start.map (·.scanPos) = some 42 := by decide +kernel

/-- R168: the header of a BEFORE, byte by byte after the check word. -/
theorem test_record_header :
    let b := (⟨.before, 3, ⟨2, 5⟩, false, 256, 7, 4, 0x4000, 1, 40, 0⟩ : Header).bytesWith (List.replicate 40 0x11)
    b.length = 96 ∧ (b.drop 4).take 28 = [1, 3, 0x25, 0, 0, 1, 0, 0, 0, 0, 0, 0, 7, 0, 0, 0, 4, 0, 0, 0, 0, 0x40, 0, 0, 1, 40, 0, 0] ∧
      (RawHeader.parse b).checkPasses b = true ∧ (RawHeader.parse (b.set 50 0x12)).checkPasses (b.set 50 0x12) = false := by
  decide +kernel

/-- R168: the anchor's signature bytes, serial, state and tail. -/
theorem test_anchor :
    let b := (⟨3, 1, .active, 8, 6⟩ : Anchor).bytes
    b.length = 64 ∧ (b.drop 4).take 4 = [0x43, 0x4E, 0x41, 0x4A] ∧ field b 8 8 = 3 ∧ field b 20 1 = 2 ∧
      field b 24 8 = 6 ∧ Anchor.parse b = some ⟨3, 1, .active, 8, 6⟩ := by decide +kernel

/-- R158, R169: the frame 01 00 FF to the part asks for GET_IDENT; the response is 00 03, the data, and the check byte that
makes the sum 0 modulo 256 (0x100 - 0x03 - 0x18 - 0x24 - 0x01 = 0xC0). -/
theorem test_get_ident :
    (after (.commandFrame 0x58 [0x01, 0x00, 0xFF]) up).responseFrame = [0x00, 0x03, 0x18, 0x24, 0x01, 0xC0] := by
  decide +kernel

/-- R151, R169: with no answer in the buffer the frame is NONE; while STOP executes it is PENDING. -/
theorem test_none_pending : up.responseFrame = [0x02, 0x00, 0xFE] ∧ (after .stop up).responseFrame = [0x01, 0x00, 0xFF] := by
  decide +kernel

/-- R79: a hold placed at time 0 under the default hold limit of 10 ms has its deadline at 10000 us. -/
theorem test_hold_deadline :
    let s := asks (claimed (withSlot up { slotAs .opened with key := ⟨0, 2⟩ }) 0) (writeTo 0x4000 1)
    (after .admitWrite s).host.holds.map (fun h => (h.reason, h.deadline)) = [(.line 0x4000, 10000)] := by decide +kernel

/-- R93: an idle expiry of a damaged group rolls it back whatever the idle action is. -/
theorem test_idle_damaged :
    let s := withSlot up { slotAs .opened with idle := some 0, damaged := true }
    let t := after (.idleExpiry 0) { s with link := { s.link with policy := { s.link.policy with idleAction := .commit } } }
    (t.slot 0).state = .rollbackWait ∧ (t.slot 0).cause = some .damaged ∧ t.grp.queue = [0] := by decide +kernel

/-- R113, R120: a warm reset keeps an OUTSTANDING tag without its requester, and its ERROR is counted. -/
theorem test_pre_reset :
    let s := after .warmReset (awaiting up (readOf (.passRead 1 2) 0x5000 8))
    (s.tag 0).req.ref = .preReset ∧ s.bridge = .gated ∧
      (after (.preResetResponse 0 (.error 0)) s).notes.counters.memErrors = 1 := by decide +kernel

/-- R151: a read transfer of 5 bytes sends the 3 bytes of NONE and then 0xFF. -/
theorem test_read_past_end : up.readTransfer 0x58 5 = [0x02, 0x00, 0xFE, 0xFF, 0xFF] := by decide +kernel

/-- R148: of 37 bytes the address and the first 35 are acknowledged. -/
theorem test_acks : up.writeAcks 0x58 (List.replicate 37 0) = List.replicate 36 true ++ [false, false] := by decide +kernel

/-- R39: a PASS write behind a held READ of its source to its line is held by ORDER. -/
theorem test_pass_held :
    let h : Hold := ⟨⟨2, 3, .read 0x140000 1⟩, .order 2 9, 500, none, false⟩
    let s := { up with host := { up.host with holds := [h], intake := [⟨writeTo 0x5000 0, false⟩] } }
    (after .admitWrite s).host.holds.map (·.reason) = [.order 2 9, .order 2 3] := by decide +kernel

/-- R62: a pause for an in-flight entry ends when an admitted request's response is sent. -/
theorem test_pause_ends :
    let s := flying (asks up (readAt 0 1)) [⟨7, 0, .passRead 0 1, .done⟩]
    let r := { s with host := { s.host with paused := some ⟨.inFlight, false⟩, responses := [⟨7, 0, .done [0], true⟩] } }
    r.pauseOver = false ∧ (after .responseSent r).pauseOver = true := by decide +kernel

/-! ### Each statement's hypotheses are met: the block, the link -/

theorem witness_StepRunsFrontCommand : ({ up with pending := [.warmReset] } : State).pending = .warmReset :: [] := by decide

theorem witness_IdleStepTicks : up.power = true ∧ up.pending = [] ∧
    ((withSlot up { slotAs .opened with idle := some 0 }).slot 0).state = .opened := by decide +kernel

theorem witness_StepKeepsGood : State.reset.good ∧ step State.reset = .next (State.reset.tick) := by
  refine ⟨?_, rfl⟩
  unfold State.good State.fits State.creditsKept
  decide +kernel

theorem witness_PoweredOffIsInert : ({ up with power := false } : State).power = false ∧
    ∀ st b l, Instr.warmReset ≠ .powerOnReset st b l := by
  refine ⟨rfl, ?_⟩
  intro _ _ _ h
  cases h

/-- A restore's answer writes memory. -/
theorem witness_MemoryChangesOnlyThroughMport : up.mem.wf = true ∧
    (after (.restoreAnswered 0 (.done [])) (awaiting up (writeOf .restore 0x100000 64))).mem.get 0x10003F = 0xCD := by
  decide +kernel

/-- SET_LOCK raises the level. -/
theorem witness_SetupChangesOnlyByItsCommands : (after (.setLock 3) up).link.lock = 3 ∧ up.link.lock = 0 := by
  decide +kernel

/-- A link at a lock level. -/
def locked (n : Fin 4) : State := { up with link := { up.link with lock := n } }

theorem witness_LockBlocksItsCommands : (locked 1).linkReady ∧ (locked 2).linkReady ∧ (locked 3).linkReady ∧
    decodeGeometry 0 7 ≠ none ∧ decodeGeometry 0 21 ≠ none ∧ RegionParams.decode ⟨7, 0, 4096, 3, 2⟩ ≠ none ∧
    PolicyParams.decode ⟨1, 1, 0, 1, 0, 1, 1, 1⟩ ≠ none ∧ decodeKey 7 15 ≠ none ∧ decodeKey 0 1 ≠ none := by
  decide +kernel

theorem witness_ReadOutReplies : up.linkReady := by decide +kernel

/-- A ring made smaller than head - persisted tail in GATED: free slots read 0 (log 50). -/
theorem test_free_slots_small_ring :
    (let s := { at_ .gated with log := { up.log with geometry := some ⟨0, 8⟩, head := 200 } }
    s.freeSlots = 56 ∧ (after (.setLog 0 7) s).log.geometry = some ⟨0, 7⟩ ∧ (after (.setLog 0 7) s).freeSlots = 0) := by
  decide +kernel

theorem witness_SetLogAnswered : State.reset.linkReady ∧ (at_ .gated).linkReady ∧ (locked 1).linkReady ∧
    up.bridge ≠ .gated ∧ State.reset.bridge = .gated ∧ 4096 % 4096 = 0 ∧ 4096 + 128 + 32 * 2 ^ 21 ≤ 2 ^ 36 ∧
    ¬ (68719476736 - 4096 + 128 + 32 * 2 ^ 7 ≤ 2 ^ 36) ∧ (up.regions[(0 : Fin 8)]).valid = true ∧
    (up.regions[(0 : Fin 8)]).base < 0xFF000 + 128 + 32 * 2 ^ 7 := by decide +kernel

theorem witness_RegionCommands : up.linkReady ∧ (at_ .gated).linkReady ∧ (locked 2).linkReady ∧
    RegionParams.decode ⟨7, 0x200000, 4096, 1, 1⟩ = some (7, ⟨true, 0x200000, 4096, .journaled, .refuse⟩) ∧
    RegionParams.decode ⟨7, 0x102000, 4096, 1, 1⟩ = some (7, ⟨true, 0x102000, 4096, .journaled, .refuse⟩) ∧
    (∀ j, (up.slot j).state = .free) ∧ (withSlot up (slotAs .opened)).regionsOpen = false ∧ up.regionsOpen = true ∧
    (up.regions[(2 : Fin 8)]).valid = true ∧ (up.regions[(3 : Fin 8)]).valid = false ∧
    (withSlot up (slotAs .opened)).linkReady := by decide +kernel

/-- In range at its upper ends, in the region of entry 2, and in the log area; one value out of range in each field. -/
theorem witness_RegionCommands_range :
    (∀ p ∈ [(⟨7, 2 ^ 36 - 2 ^ 34, 2 ^ 34, 3, 2⟩ : RegionParams), ⟨7, 0x102000, 4096, 1, 1⟩, ⟨7, 0, 4096, 1, 1⟩],
      p.index < 8 ∧ p.base % 4096 = 0 ∧ p.size % 4096 = 0 ∧ 4096 ≤ p.size ∧ p.size ≤ 2 ^ 34 ∧ p.base + p.size ≤ 2 ^ 36 ∧
        1 ≤ p.cls ∧ p.cls ≤ 3 ∧ 1 ≤ p.policy ∧ p.policy ≤ 2) ∧
    (∀ p ∈ [(⟨8, 0, 4096, 1, 1⟩ : RegionParams), ⟨0, 1, 4096, 1, 1⟩, ⟨0, 0, 4095, 1, 1⟩, ⟨0, 0, 0, 1, 1⟩,
        ⟨0, 0, 2 ^ 34 + 4096, 1, 1⟩, ⟨0, 2 ^ 36 - 4096, 8192, 1, 1⟩, ⟨0, 0, 4096, 4, 1⟩, ⟨0, 0, 4096, 1, 0⟩],
      RegionParams.decode p = none) ∧
    up.log.geometry = some ⟨0, 7⟩ ∧ (up.regions[(2 : Fin 8)]).base = 0x102000 := by decide +kernel

theorem witness_SetPolicyAnswered : up.linkReady ∧ State.reset.linkReady ∧ (locked 3).linkReady ∧
    (PolicyParams.decode ⟨2, 65535, 65535, 2, 2097152, 2, 255, 2⟩).isSome = true ∧
    (PolicyParams.decode ⟨1, 1, 0, 1, 0, 1, 1, 1⟩).isSome = true ∧
    PolicyParams.decode ⟨1, 0, 0, 1, 0, 1, 1, 1⟩ = none := by decide +kernel

/-- A polarity change outside GATED, a part without a newest durable anchor, and HALTED with AUTO asked for. -/
theorem witness_SetPolicyAnswered_states : up.link.policy.polarity = .activeLow ∧ up.bridge ≠ .gated ∧
    up.log.newest ≠ none ∧ State.reset.log.newest = none ∧ (at_ .halted).linkReady := by decide +kernel

theorem witness_LockMaskAndCounters : up.linkReady ∧ (locked 3).linkReady ∧ up.link.lock ≤ (3 : Fin 4) ∧
    2 < (locked 3).link.lock.val ∧ up.link.lock.val < 3 := by decide +kernel

/-- A notice of GROUP_COMMITTED. -/
def aNotice : Notice := ⟨.groupCommitted, 0, 65535, ⟨2, 1⟩, .cause .mark, 1, 10⟩

theorem witness_PopNoticeAnswered : up.linkReady ∧ up.notes.queue = [] ∧
    ({ up with notes := { up.notes with queue := [aNotice] } } : State).linkReady := by decide +kernel

/-- A queue of 16 notices, and one of 15. -/
theorem witness_PopNoticeAnswered_full :
    (List.replicate 16 aNotice) = List.replicate 15 aNotice ++ [aNotice] ∧ (List.replicate 15 aNotice).length = 15 ∧
      (List.replicate 15 aNotice).length < 16 := by decide +kernel

theorem witness_FrameRunsItsCommand : up.linkReady ∧ byteSum [0x01, 0x00, 0xFF] = 0 ∧ paramCount 0x01 = some 0 ∧
    byteSum [0x13, 0x01, 0x03, 0xE9] = 0 ∧ paramCount 0x13 = some 1 ∧ byteSum [0x09, 0x01, 0x01, 0xF5] = 0 ∧
    byteSum [0x09, 0x01, 0x02, 0xF4] = 0 ∧ byteSum [0x09, 0x01, 0x03, 0xF3] = 0 ∧ paramCount 0x09 = some 1 := by
  decide +kernel

theorem witness_FrameTests : up.linkReady ∧ up.targetAddress = 0x58 ∧ byteSum [0x14, 0x00, 0xEC] = 0 ∧
    byteSum [0x01, 0x01, 0x00, 0xFE] = 0 ∧ paramCount 0x01 = some 0 ∧
    ({ up with link := { up.link with state := .executing 0x0A [] } } : State).link.state = .executing 0x0A [] := by
  decide +kernel

/-- A read transfer with no answer, with one, and while a command executes. -/
theorem witness_FrameTests_read : up.link.state = .idle ∧ up.link.buffer = .none ∧
    (after .getIdent up).link.buffer = .answer .ok [0x18, 0x24, 0x01] ∧ (after .getIdent up).link.state = .idle ∧
    (after .stop up).link.state ≠ .idle ∧ (0x10 : BitVec 7) ≠ up.targetAddress := by decide +kernel

/-! ### The H-port and the admission unit -/

theorem witness_HostRequestTaken : up.power = true ∧ up.host.intake.length < 32 ∧
    32 ≤ ({ up with host := { up.host with intake := List.replicate 32 ⟨readAt 0 1, false⟩ } } : State).host.intake.length := by
  decide +kernel

theorem witness_MalformedRefused : (asks up (readAt 0 0)).takes ∧
    (asks up (readAt 0x3F 2)).host.intake = [⟨readAt 0x3F 2, false⟩] ∧ 64 < (0x3F : BitVec 36).toNat % 64 + 2 ∧
    (asks (at_ .faulted) (writeTo 0x4000 1 0)).takes ∧ (asks up (markFor .other)).takes := by decide +kernel

theorem witness_AdmissionWaits : ¬ (holding (asks up (readAt 0 1)) [heldWrite .logSpace true]).takes ∧
    up.host.intake = [] ∧ (asks up (readAt 0 1)).host.intake = [⟨readAt 0 1, false⟩] ∧
    admitRow (readAt 0 1).body ≠ .admitWrite := by decide +kernel

/-- The part pauses with its front request for want of room, or the table that was short has freed room. -/
def pausing (s : State) (room : Room) (freed : Bool) : State := { s with host := { s.host with paused := some ⟨room, freed⟩ } }

theorem witness_AdmissionWaits_paused : ∀ room ∈ [Room.inFlight, .window],
    (pausing (asks up (readAt 0 1)) room false).host.paused = some ⟨room, false⟩ ∧
    ¬ (pausing (asks up (readAt 0 1)) room false).takes ∧ (pausing (asks up (readAt 0 1)) room true).takes := by
  decide +kernel

/-- Slot 0 is rolling back and its line 0x4000 is claimed. -/
def rollingLine (b : Bridge) : State := { claimed (withSlot up (slotAs .rollingBack)) 0 with bridge := b }

theorem witness_ReadDecided :
    (asks (at_ .gated) (readAt 0x100000 64)).front (readAt 0x100000 64) [] ∧
    (asks (at_ .recovering) (readAt 0x100000 64)).classify 0x100000 = .journaled .refuse ∧
    (asks (at_ .recovering) (readAt 0 1)).classify 0 = .log ∧
    (asks (rollingLine .halted) (readAt 0x100000 64)).front (readAt 0x100000 64) [] ∧
    (rollingLine .halted).claimOf (0x100000 / 64) = some ⟨0x4000, 0, 0⟩ ∧
    ((rollingLine .halted).slot 0).state = .rollingBack ∧
    (asks (rollingLine .running) (readAt 0x10003F 1)).noneHeldOn 2 0x4000 ∧
    (asks (holding up [heldWrite .logSpace false]) (readAt 0x10003F 1)).front (readAt 0x10003F 1) [] ∧
    (heldWrite .logSpace false).isOn 2 0x4000 ∧ 63 % 64 + 1 ≤ 64 := by decide +kernel

/-- The last byte of the log area, a byte of one entry alone, and a byte of none. -/
theorem witness_ReadDecided_classes : up.log.geometry = some ⟨0, 7⟩ ∧ 4223 < 0 + 128 + 32 * 2 ^ 7 ∧
    (∀ i : Fin 8, ((up.regions[i]).valid = true ∧ (up.regions[i]).base ≤ 0x102FFF ∧
      0x102FFF < (up.regions[i]).base + (up.regions[i]).size) → i = 2) ∧
    (up.regions[(2 : Fin 8)]).base + (up.regions[(2 : Fin 8)]).size = 0x103000 ∧
    (∀ i : Fin 8, (up.regions[i]).valid = true → (up.regions[i]).base + (up.regions[i]).size ≤ 0x103000) := by
  decide +kernel

theorem witness_WriteByStateAndClass :
    (asks (at_ .gated) (writeTo 0x4000 1)).front (writeTo 0x4000 1) [] ∧ BitVec.allOnes 64 ≠ 0 ∧
    (asks (at_ .faulted) (writeTo 0x4080 0)).front (writeTo 0x4080 0) [] ∧ up.classify (0x4080 * 64) = .readOnly ∧
    up.classify (0x5000 * 64) = .pass ∧ up.classify 0 = .log ∧ up.classify (0x4000 * 64) = .journaled .refuse ∧
    up.classify (0x4040 * 64) = .journaled .passUnlogged ∧ up.claimOf 0x4040 = none ∧
    (claimed up 0).claimOf 0x4000 = some ⟨0x4000, 0, 0⟩ ∧ up.noneHeldOn 2 0x4040 ∧
    (asks (holding up [heldWrite .logSpace false]) (writeTo 0x4040 0)).front (writeTo 0x4040 0) [] := by decide +kernel

/-- A held request of source 2 to the PASS line 0x5000. -/
def heldPass : Hold := ⟨⟨2, 3, .read 0x140000 1⟩, .order 2 9, 500, none, false⟩

/-- A PASS write behind an older held request to its line, and one that passes; a full in-flight table. -/
theorem witness_WriteByStateAndClass_pass :
    (asks (holding up [heldPass]) (writeTo 0x5000 0)).front (writeTo 0x5000 0) [] ∧ heldPass.isOn 2 0x5000 ∧
    up.noneHeldOn 2 0x5000 ∧ (asks up (writeTo 0x5000 0)).front (writeTo 0x5000 0) [] ∧
    (asks up (writeTo 0x4080 0)).front (writeTo 0x4080 0) [] ∧ (asks up (writeTo 0x4000 0)).front (writeTo 0x4000 0) [] := by
  decide +kernel

/-- Every slot is in use, for other groups. -/
def allInUse : State := { up with grp := { up.grp with slots := Vector.replicate 4 { slotAs .opened with key := ⟨3, 1⟩ } } }

/-- A persisted tail so far back that 6 ring slots are free. -/
def nearlyFull : State := { up with log := { up.log with head := 122 } }

theorem mayJournal_opens : (asks up (writeTo 0x4000 1)).mayJournal ⟨2, 1⟩ 0x4000 0 true true 0 := by
  refine ⟨rfl, ⟨.refuse, by decide +kernel⟩, by decide, by decide +kernel, ?_, ?_⟩ <;> simp only [if_true] <;> decide +kernel

theorem mayJournal_joins :
    (asks (claimed (withSlot up (slotAs .opened)) 1) (writeTo 0x4000 1)).mayJournal ⟨2, 1⟩ 0x4000 0 false false 1 := by
  refine ⟨rfl, ⟨.refuse, by decide +kernel⟩, by decide, by decide +kernel, ?_, ?_⟩
  · simp only [Bool.false_eq_true, if_false]; decide +kernel
  · simp only [Bool.false_eq_true, if_false]; exact ⟨trivial, ⟨0x4000, 0, 1⟩, by decide +kernel, rfl, rfl⟩

theorem mayJournal_nearlyFull : (asks nearlyFull (writeTo 0x4000 1)).mayJournal ⟨2, 1⟩ 0x4000 0 true true 0 := by
  refine ⟨rfl, ⟨.refuse, by decide +kernel⟩, by decide, by decide +kernel, ?_, ?_⟩ <;> simp only [if_true] <;> decide +kernel

/-- With 6 free ring slots a 3-slot record leaves less than the reserve. -/
theorem witness_JournaledWriteTurnedBack :
    (asks (withSlot up (slotAs .committing)) (writeTo 0x4000 1)).front (writeTo 0x4000 1) [] ∧
    (withSlot up (slotAs .committing)).findSlot ⟨2, 1⟩ = some 0 ∧
    ((withSlot up { slotAs .opened with damaged := true }).slot 0).damaged = true ∧
    up.findSlot ⟨2, 1⟩ = none ∧ allInUse.findSlot ⟨2, 1⟩ = none ∧ allInUse.freeSlot = none ∧ up.freeSlot = some 0 ∧
    (claimed up 0).claimOf 0x4000 = some ⟨0x4000, 0, 0⟩ ∧
    256 ≤ ({ up with grp := { up.grp with claims := List.replicate 256 ⟨9, 1, 0⟩ } } : State).grp.claims.length ∧
    neededSpan (BitVec.allOnes 64) 0 = some (0, 64) ∧ nearlyFull.freeSlots = 6 ∧
    padSlots nearlyFull.geo nearlyFull.log.head (beforeSlots 64) = 0 ∧ beforeSlots 64 = 3 := by decide +kernel

/-- Byte 63 alone, and bytes 0 and 63. -/
theorem witness_NeededSpan : neededSpan (1#64 <<< 63) 0 = some (63, 1) ∧
    neededSpan ((1#64 <<< 63) ||| 1#64) 0 = some (0, 64) ∧ neededSpan 1 1 = none ∧
    (1#64 <<< 63).getLsbD 63 = true ∧ (0#64).getLsbD 63 = false := by decide +kernel

/-- The log one slot before the ring end, so that a record needs a PAD. -/
def atRingEnd : State := { up with log := { up.log with head := 127, persistedTail := 60, volatileTail := 60 } }

theorem mayJournal_pads : (asks atRingEnd (writeTo 0x4000 1)).mayJournal ⟨2, 1⟩ 0x4000 0 true true 0 := by
  refine ⟨rfl, ⟨.refuse, by decide +kernel⟩, by decide, by decide +kernel, ?_, ?_⟩ <;> simp only [if_true] <;> decide +kernel

theorem witness_JournaledWriteAdmitted :
    (asks up (writeTo 0x4000 1)).front (writeTo 0x4000 1) [] ∧ neededSpan (BitVec.allOnes 64) 0 = some (0, 64) ∧
    0 + 3 + 4 ≤ up.freeSlots ∧ up.host.inflight.length < 32 ∧ 1 + up.log.window.length + up.log.due.length ≤ 8 ∧
    (asks (claimed (withSlot up (slotAs .opened)) 1) (writeTo 0x4000 1)).front (writeTo 0x4000 1) [] ∧
    neededSpan (BitVec.allOnes 64) 1 = some (1, 63) ∧
    (asks atRingEnd (writeTo 0x4000 1)).front (writeTo 0x4000 1) [] ∧
    padSlots atRingEnd.geo atRingEnd.log.head 3 = 1 ∧ 1 + 3 + 4 ≤ atRingEnd.freeSlots ∧
    ({ up with log := { up.log with newest := some ⟨.a, 1, .clean, 0⟩ } } : State).anchorClean = true := by
  decide +kernel

/-- A part with this low-water value. -/
def withLow (s : State) (n : Nat) : State :=
  { s with link := { s.link with policy := { s.link.policy with lowWater := n } } }

/-- Free slots fall below the low-water value at the PAD, at the BEFORE, or at neither; a part whose LOG_LOW is not armed;
and the clean barrier, begun and not. -/
theorem witness_JournaledWriteAdmitted_low :
    (let free : Nat → Nat → Nat := fun n head =>
      ({ withLow atRingEnd n with log := { (withLow atRingEnd n).log with head := head } } : State).freeSlots
    free 61 128 < 61 ∧ ¬ free 59 128 < 59 ∧ free 59 131 < 59 ∧ ¬ free 40 131 < 40 ∧
      ∀ n ∈ [40, 59, 61], (asks (withLow atRingEnd n) (writeTo 0x4000 1)).front (writeTo 0x4000 1) []) ∧
    atRingEnd.log.lowArmed = true ∧ atRingEnd.log.anchorOp = .idle ∧ atRingEnd.anchorClean = false ∧
    ({ up with log := { up.log with newest := some ⟨.a, 1, .clean, 0⟩ } } : State).log.anchorOp = .idle := by
  decide +kernel

/-- The append window holds 8 records. -/
def windowFull (s : State) : State := windowed s (List.replicate 8 (commitRec 20)) 30

theorem mayJournal_windowFull : (asks (windowFull up) (writeTo 0x4000 1)).mayJournal ⟨2, 1⟩ 0x4000 0 true true 0 := by
  refine ⟨rfl, ⟨.refuse, by decide +kernel⟩, by decide, by decide +kernel, ?_, ?_⟩ <;> simp only [if_true] <;> decide +kernel

theorem witness_JournaledWriteAdmitted_pauses :
    (asks (windowFull up) (writeTo 0x4000 1)).front (writeTo 0x4000 1) [] ∧
    ¬ (1 + (windowFull up).log.window.length + up.log.due.length ≤ 8) ∧ 0 + 3 + 4 ≤ (windowFull up).freeSlots ∧
    (windowFull up).host.inflight.length < 32 := by decide +kernel

theorem mayJournal_whole : (asks (claimed (withSlot up (slotAs .opened)) (BitVec.allOnes 64)) (writeTo 0x4000 1)).mayJournal
    ⟨2, 1⟩ 0x4000 0 false false (BitVec.allOnes 64) := by
  refine ⟨rfl, ⟨.refuse, by decide +kernel⟩, by decide, by decide +kernel, ?_, ?_⟩
  · simp only [Bool.false_eq_true, if_false]; decide +kernel
  · simp only [Bool.false_eq_true, if_false]
    exact ⟨trivial, ⟨0x4000, 0, BitVec.allOnes 64⟩, by decide +kernel, rfl, rfl⟩

theorem witness_JournaledWriteWithoutRecord :
    (asks (claimed (withSlot up (slotAs .opened)) (BitVec.allOnes 64)) (writeTo 0x4000 1)).front (writeTo 0x4000 1) [] ∧
    neededSpan (BitVec.allOnes 64) (BitVec.allOnes 64) = none ∧ up.anchorActive = true ∧
    lineOrder up.host.inflight 2 0x4000 true = true := by decide +kernel

/-! ### Marks, groups, responses and holds -/

/-- A full in-flight table, of requests of source 7. -/
def fullFlight (s : State) : State := flying s (List.replicate 32 ⟨7, 0, .passRead 0 1, .issued⟩)

theorem mayJournal_fullFlight : (asks (fullFlight up) (writeTo 0x4000 1)).mayJournal ⟨2, 1⟩ 0x4000 0 true true 0 := by
  refine ⟨rfl, ⟨.refuse, by decide +kernel⟩, by decide, by decide +kernel, ?_, ?_⟩ <;> simp only [if_true] <;> decide +kernel

theorem mayJournal_wholeFullFlight :
    (asks (fullFlight (claimed (withSlot up (slotAs .opened)) (BitVec.allOnes 64))) (writeTo 0x4000 1)).mayJournal
      ⟨2, 1⟩ 0x4000 0 false false (BitVec.allOnes 64) := by
  refine ⟨rfl, ⟨.refuse, by decide +kernel⟩, by decide, by decide +kernel, ?_, ?_⟩
  · simp only [Bool.false_eq_true, if_false]; decide +kernel
  · simp only [Bool.false_eq_true, if_false]
    exact ⟨trivial, ⟨0x4000, 0, BitVec.allOnes 64⟩, by decide +kernel, rfl, rfl⟩

/-- Writes that pause for an in-flight entry, with a record and without one. -/
theorem witness_JournaledWrite_fullFlight : ¬ (asks (fullFlight up) (writeTo 0x4000 1)).host.inflight.length < 32 ∧
    (asks (fullFlight up) (writeTo 0x4000 1)).front (writeTo 0x4000 1) [] ∧ 0 + 3 + 4 ≤ (fullFlight up).freeSlots ∧
    (asks (fullFlight (claimed (withSlot up (slotAs .opened)) (BitVec.allOnes 64))) (writeTo 0x4000 1)).front
      (writeTo 0x4000 1) [] := by decide +kernel

theorem witness_MarkRefused : (asks (at_ .gated) (markFor .commit)).front (markFor .commit) [] ∧
    (asks (at_ .halted) (markFor .abandon)).front (markFor .abandon) [] ∧
    (asks (at_ .faulted) (markFor .commit)).front (markFor .commit) [] ∧
    (asks up (markFor .abandon)).front (markFor .abandon) [] ∧ up.findSlot ⟨2, 1⟩ = none := by decide +kernel

/-- Slot 0 in this state with this waiter, and a mark at the front. -/
def marked (st : SlotState) (w : Option Waiter) (k : MarkKind) : State :=
  asks (withSlot up { slotAs st with waiter := w }) (markFor k)

theorem witness_CommitMark : (marked .opened none .commit).front (markFor .commit) [] ∧
    (marked .opened none .commit).findSlot ⟨2, 1⟩ = some 0 ∧ (marked .opened none .commit).host.inflight.length < 32 ∧
    (marked .committing none .commit).findSlot ⟨2, 1⟩ = some 0 ∧
    ((marked .committing (some ⟨2, 9, .commit⟩) .commit).slot 0).waiter ≠ none ∧
    (marked .broken none .commit).findSlot ⟨2, 1⟩ = some 0 ∧
    (asks (withSlot up { slotAs .opened with damaged := true }) (markFor .commit)).findSlot ⟨2, 1⟩ = some 0 ∧
    ¬ (asks (fullFlight (withSlot up (slotAs .opened))) (markFor .commit)).host.inflight.length < 32 := by decide +kernel

theorem witness_AbandonMark : (marked .opened none .abandon).front (markFor .abandon) [] ∧
    (marked .rollbackWait none .abandon).findSlot ⟨2, 1⟩ = some 0 ∧
    ((marked .rollingBack (some ⟨2, 9, .commit⟩) .abandon).slot 0).waiter ≠ none ∧
    (marked .committing none .abandon).findSlot ⟨2, 1⟩ = some 0 ∧ (marked .broken none .abandon).findSlot ⟨2, 1⟩ = some 0 ∧
    (∀ e ∈ (marked .broken none .abandon).host.inflight, ¬ (e.source = 2 ∧ e.tag = 0)) ∧
    ¬ (asks (fullFlight (withSlot up (slotAs .opened))) (markFor .abandon)).host.inflight.length < 32 := by decide +kernel

/-- An OPEN group whose deadline has expired, damaged or not, under an idle action. -/
def expired (damaged : Bool) (a : IdleAction) : State :=
  let s := withSlot up { slotAs .opened with idle := some 0, damaged := damaged }
  { s with link := { s.link with policy := { s.link.policy with idleAction := a } } }

theorem witness_IdleExpiry : (expired false .commit).power = true ∧ ((expired false .commit).slot 0).state = .opened ∧
    ((expired false .rollback).slot 0).idle = some 0 ∧ ((expired true .commit).slot 0).damaged = true ∧
    (expired false .commit).bridge = .running := by decide +kernel

theorem witness_GroupCommands : up.linkReady ∧ ¬ (8 < 8 ∧ 1 ≤ 1 ∧ 1 < 16) ∧ ¬ (0 < 8 ∧ 1 ≤ 0 ∧ 0 < 16) ∧
    (at_ .halted).linkReady ∧ up.findSlot ⟨7, 15⟩ = none ∧ (withSlot up (slotAs .opened)).findSlot ⟨2, 1⟩ = some 0 ∧
    (withSlot up (slotAs .broken)).findSlot ⟨2, 1⟩ = some 0 ∧ (withSlot up (slotAs .broken)).linkReady ∧
    up.link.lock.val < 3 := by decide +kernel

theorem witness_ResponseSent : up.host.responses = [] ∧
    ({ up with host := { up.host with
      inflight := [⟨2, 0, .passRead 0 1, .done⟩]
      responses := [⟨2, 0, .done [0], true⟩] } } : State).host.responses = [⟨2, 0, .done [0], true⟩] := by decide +kernel

/-- A pause and a held entry that wait for an in-flight entry. -/
theorem witness_ResponseSent_waiters : (pausing up .inFlight false).host.paused = some ⟨.inFlight, false⟩ ∧
    ({ heldWrite .logSpace false with room := some .inFlight } : Hold).room = some .inFlight := by decide

/-- A held READ of its line's rollback, marked. -/
def heldRead : Hold := ⟨⟨2, 4, .read 0x100000 64⟩, .rollbackRead 0x4000, 500, none, true⟩

theorem witness_HeldReevaluated :
    (∀ g ∈ ([] : List Hold) ++ [heldWrite .logSpace false],
      g.marked = false ∧ g.reason ≠ .order heldRead.req.source heldRead.req.tag) ∧ heldRead.marked = true ∧
    (holding up [heldRead, heldWrite .logSpace false]).heldVerdict [] heldRead.req = .pass ∧
    (holding (rollingLine .running) [heldRead]).heldVerdict [] heldRead.req = .hold (.rollbackRead 0x4000) ∧
    (holding (withSlot up (slotAs .committing)) [heldWrite .logSpace true]).heldVerdict [] (heldWrite .logSpace true).req =
      .refuse .groupClosing ∧
    32 ≤ (fullFlight (holding up [heldRead])).host.inflight.length := by decide +kernel

/-- A held WRITE to a PASS line, marked. -/
def heldPassWrite : Hold := ⟨⟨2, 3, .write 0x5000 1 bytes64 0⟩, .order 2 9, 500, none, true⟩

/-- A held WRITE is admitted as journaled, waits for a window place or an in-flight entry, or passes; each decision is the
one its row takes from the front of the intake. -/
theorem witness_HeldReevaluated_writes :
    (holding up [heldWrite .logSpace true]).heldVerdict [] (heldWrite .logSpace true).req =
      .journal ⟨0, true, true, some (0, 1)⟩ ∧
    (holding (windowFull up) [heldWrite .logSpace true]).heldVerdict [] (heldWrite .logSpace true).req =
      .journal ⟨0, true, true, some (0, 1)⟩ ∧
    (holding (fullFlight up) [heldWrite .logSpace true]).heldVerdict [] (heldWrite .logSpace true).req =
      .journal ⟨0, true, true, some (0, 1)⟩ ∧
    (holding up [heldPassWrite]).heldVerdict [] heldPassWrite.req = .pass ∧
    (∀ h ∈ [heldWrite .logSpace true, heldPassWrite, heldRead], malformed h.req = false ∧
      (requestLine h.req.body).isSome = true) ∧ ([] : List Hold).length < 8 := by decide +kernel

/-- A held request at its deadline. -/
def late : State := { holding up [heldWrite .logSpace false] with now := 500 }

theorem witness_HoldTimeout : late.host.holds = [] ++ heldWrite .logSpace false :: [] ∧
    (heldWrite .logSpace false).deadline ≤ late.now ∧ ∀ h ∈ up.host.holds, ¬ (h.req.source = 2) := by decide +kernel

/-- Slot 0 is COMMITTING and its COMMIT record is due. -/
def closingDue : State :=
  let s := withSlot up (slotAs .committing)
  { s with log := { s.log with due := [⟨0, .commit⟩], head := 13 } }

theorem witness_ClosingRecordAllocated : closingDue.log.due = ⟨0, .commit⟩ :: [] ∧ closingDue.bridge = .running ∧
    closingDue.log.window.length < 8 ∧ up.log.due = [] ∧
    8 ≤ (windowed closingDue (List.replicate 8 (commitRec 20)) 30).log.window.length := by decide +kernel

/-- In DRAINING and RECOVERING the record is allocated; in a recovery that is to stop (R133; log 18) and elsewhere it is
not. -/
theorem witness_ClosingRecordAllocated_bridge :
    (∀ b ∈ [Bridge.draining, .recovering], ({ closingDue with bridge := b } : State).stopping = false ∧
      (after .closingRecordAllocate { closingDue with bridge := b }).log.head = 14) ∧
    (let s : State := { closingDue with
      bridge := .recovering
      start := some ⟨.recover, .rollback, .pending, .pending, 0, 0, 0, 0, 0, true⟩ }
    s.stopping = true ∧ after .closingRecordAllocate s = s) ∧
    after .closingRecordAllocate { closingDue with bridge := .halted } = { closingDue with bridge := .halted } := by
  decide +kernel

/-! ### The M-port and the journaled write -/

/-- A READ waits in the TRAFFIC queue. -/
def wanting : State := { up with mport := { up.mport with trafficQ := [readOf (.passRead 2 0) 0 64] } }

theorem witness_GrantIssuesOldestReady : (∀ c, c ∈ [Cls.log, .rollback, .traffic] → up.eligible c = false) ∧
    wanting.mport.last.rotation = [.log, .rollback] ++ .traffic :: [] ∧
    (∀ d ∈ [Cls.log, .rollback], wanting.eligible d = false) ∧ wanting.eligible .traffic = true ∧
    wanting.settling = false ∧ (awaiting up (readOf .preReset 0 64)).settling = true := by decide +kernel

/-- The data write of the write at position 10 waits to be issued, and a request whose span passes the end of memory. -/
theorem witness_GrantIssuesOldestReady_data :
    (let s := flying { up with mport := { up.mport with trafficQ := [writeOf (.dataWrite 2 0) 0x100000 64] } }
      [theWrite .dataQueued]
    s.eligible .traffic = true ∧ s.settling = false ∧ s.eligible .log = false ∧ s.eligible .rollback = false) ∧
    (let s : State := { up with mport := { up.mport with logQ := [writeOf .anchorWrite (2 ^ 36 - 63) 64] } }
    s.eligible .log = true ∧ 2 ^ 36 < 2 ^ 36 - 63 + 64) ∧ up.mport.last.rotation = [.log, .rollback, .traffic] := by
  decide +kernel

/-- A READ of line 0 is issued while a WRITE to it is unanswered, and a WRITE to it is issued while a READ is: the bytes the
WRITE selects are raced, the others are not. -/
theorem witness_GrantIssuesOldestReady_raced :
    (let w := { writeOf (.passWrite 3 0) 0 64 with mask := 0xF0 }
    let issued := after .mportGrant (awaiting wanting w)
    let outstanding := after .mportGrant
      { awaiting up (readOf (.biRead 10) 2 64) with mport :=
        { (awaiting up (readOf (.biRead 10) 2 64)).mport with trafficQ := [w] } }
    (issued.tag 1).raced = 0xF0 ∧ (issued.tag 0).raced = 0 ∧ (outstanding.tag 0).raced = 0x3C ∧
      (outstanding.tag 1).raced = 0) := by decide +kernel

/-- A RETIRED WRITE whose last byte is the first of a READ. -/
theorem witness_CreditAndFence :
    ((up.setTag 0 ⟨.retired, .traffic, writeOf (.passWrite 2 0) 0 64, 0, 0⟩).tag 0).state = .retired ∧
    (writeOf (.passWrite 2 0) 0 64).write = true ∧ 63 < 0 + (writeOf (.passWrite 2 0) 0 64).len ∧
    63 < (readOf .scanRead 63 32).addr + (readOf .scanRead 63 32).len := by decide +kernel

/-- A pass-through access admitted behind the write of its source to its line. -/
def behind (w : Work) : State := flying up [theWrite .dataIssued, ⟨2, 1, w, .queued⟩]

/-- The place of each request in admission order; a walk that is stopped, and one that is not. -/
theorem witness_CreditAndFence_ready : (behind (.passRead 0x100000 64)).admittedAfter [theWrite .dataIssued] 2 1 ∧
    (behind (.passWrite 0x4000 1 bytes64)).admittedAfter [theWrite .dataIssued] 2 1 ∧
    (theWrite .biRead).ownsRecord 10 = true ∧ (readOf (.passRead 2 1) 0x100000 64).addr / 64 = 0x4000 ∧
    (flying up [theWrite .biRead]).host.inflight = [] ++ theWrite .biRead :: [] ∧
    up.ready (readOf .dropped 0 64) = true ∧
    (up.setTag 0 ⟨.retired, .traffic, writeOf (.passWrite 2 0) 0 64, 0, 0⟩).ready (readOf .dropped 0 64) = false := by
  refine ⟨⟨_, [], rfl, by decide +kernel, by decide +kernel⟩, ⟨_, [], rfl, by decide +kernel, by decide +kernel⟩, ?_⟩
  decide +kernel

/-- An OUTSTANDING pass-through READ at its limit. -/
def limitReached : State :=
  { flying (awaiting up (readOf (.passRead 2 0) 0 64)) [⟨2, 0, .passRead 0 64, .issued⟩] with now := 4000 }

theorem witness_ResponseLimitExpiry : limitReached.awaits 0 (.passRead 2 0) ∧
    (limitReached.tag 0).limit ≤ limitReached.now ∧
    ¬ ((awaiting up (readOf (.passRead 2 0) 0 64)).tag 0).limit ≤ (awaiting up (readOf (.passRead 2 0) 0 64)).now := by
  decide +kernel

/-- A request at its limit. -/
def expiring (q : MReq) : State := { awaiting up q with now := 4000 }

/-- Every requester has a failed answer. -/
theorem witness_ResponseLimitExpiry_requesters :
    (∀ q ∈ [readOf (.biRead 10) 0x100000 64, writeOf (.recordWrite 10 false) 448 96, writeOf (.recordWrite 10 true) 448 96,
        readOf (.walkRead 10) 448 96, writeOf .restore 0x100000 64, readOf .scanRead 768 96, readOf (.anchorRead .a) 0 64,
        readOf (.passRead 2 0) 0 64, writeOf (.passWrite 2 0) 0x140000 64, writeOf (.dataWrite 2 0) 0x100000 64,
        readOf .preReset 0 64, readOf .dropped 0 64],
      ((expiring q).tag 0).state = .outstanding ∧ ((expiring q).tag 0).limit ≤ (expiring q).now ∧
        ((expiring q).failedAnswer 0).isSome = true) ∧
    (∀ u ∈ [AnchorUse.running, .drain, .beforeStop, .stop, .freshFirst, .freshSecond, .recovery],
      ((anchoring (expiring (writeOf .anchorWrite 64 64)) (.writing .b (someAnchor .clean) u)).failedAnswer 0).isSome =
        true) := by decide +kernel

theorem witness_AnswerWithoutRequester : answerRow (.lateResponse 0 (.done [])) = some (0, .done []) ∧
    answerRow (.preResetResponse 0 (.error 0)) = some (0, .error 0) ∧ (up.tag 0).state = .free ∧
    ((up.setTag 0 ⟨.retired, .traffic, writeOf (.passWrite 2 0) 0 64, 0, 0⟩).tag 0).state = .retired ∧
    (awaiting up (readOf .preReset 0 64)).awaits 0 .preReset ∧ up.mem.wf = true := by decide +kernel

theorem witness_PassReadAnswered : limitReached.power = true ∧ limitReached.awaits 0 (.passRead 2 0) ∧
    (limitReached.tag 0).req.write = false := by decide +kernel

theorem witness_PassWriteAnswered : (awaiting up (writeOf (.passWrite 2 0) 0x140000 64)).awaits 0 (.passWrite 2 0) ∧
    up.mem.wf = true := by decide +kernel

/-- A journaled write of an OPEN group at a stage, its record pending, with this M-port request OUTSTANDING. -/
def writing (st : Stage) (q : MReq) (b : Bridge) : State :=
  { awaiting (flying (windowed (claimed (withSlot up { slotAs .opened with inflight := 1 }) 0) [before 10] 13)
      [theWrite st]) q with bridge := b }

theorem witness_BiReadDone : ∀ b ∈ [Bridge.running, .faulted],
    (writing .biRead (readOf (.biRead 10) 0x100000 64) b).awaits 0 (.biRead 10) ∧
    (writing .biRead (readOf (.biRead 10) 0x100000 64) b).windowAt 10 = some (before 10) ∧
    (writing .biRead (readOf (.biRead 10) 0x100000 64) b).ownerOf 10 = some (theWrite .biRead) := by decide +kernel

/-- In FAULTED: the write was answered at the fault entry, and its before-image read or its record's first write is still
OUTSTANDING; the same of a closing record. -/
theorem witness_BiReadDone_faulted :
    (∀ r ∈ [Ref.biRead 10, .recordWrite 10 false], ∀ w : Bool,
      (writing .done ⟨r, w, 448, 64, 0, []⟩ .faulted).awaits 0 r ∧
      (writing .done ⟨r, w, 448, 64, 0, []⟩ .faulted).ownerOf 10 = none ∧
      (writing .done ⟨r, w, 448, 64, 0, []⟩ .faulted).windowAt 10 = some (before 10)) ∧
    (writing .done (readOf (.biRead 10) 0x100000 64) .faulted).bridge = .faulted ∧ (before 10).kind = .before ∧
    (commitRec 13).kind ≠ .before := by decide +kernel

/-- A header with every field at its largest value, and a BEFORE that fills its ring slots. -/
theorem witness_BiReadDone_layout :
    (let h : Header := ⟨.rollback, 255, ⟨7, 15⟩, true, 2 ^ 64 - 1, 2 ^ 32 - 1, 2 ^ 32 - 1, 2 ^ 32 - 1, 255, 255, 65535⟩
    h.slots < 256 ∧ h.pos < 2 ^ 64 ∧ h.gen < 2 ^ 32 ∧ h.back < 2 ^ 32 ∧ h.line < 2 ^ 32 ∧ h.first < 256 ∧ h.count < 256 ∧
      h.records < 65536) ∧
    (before 10).kind = .before ∧ bytes64.length = (before 10).count ∧ 32 + (before 10).count ≤ 32 * (before 10).slots := by
  decide +kernel

theorem witness_RecordVoided : ∀ b ∈ [Bridge.running, .faulted],
    (writing .biRead (readOf (.biRead 10) 0x100000 64) b).awaits 0 (.biRead 10) ∧
    (writing .recWrite (writeOf (.recordWrite 10 false) 448 96) b).awaits 0 (.recordWrite 10 false) ∧
    (writing .recWrite (writeOf (.recordWrite 10 false) 448 96) b).windowAt 10 = some (before 10) ∧
    (writing .recWrite (writeOf (.recordWrite 10 false) 448 96) b).ownerOf 10 = some (theWrite .recWrite) ∧
    (before 10).kind = .before := by decide +kernel

/-- The last write of a COMMITTING group is answered by the failure of its before-image read: the COMMIT record is due (R46,
R96). -/
theorem test_void_closing_step :
    (let s := withSlot (writing .biRead (readOf (.biRead 10) 0x100000 64) .running) { slotAs .committing with inflight := 1 }
    s.awaits 0 (.biRead 10) ∧ s.ownerOf 10 = some (theWrite .biRead) ∧ s.log.due = [] ∧
      (after (.biReadFailed 0) s).log.due = [⟨0, .commit⟩]) := by decide +kernel

theorem witness_RecordWriteDone : (writing .recWrite (writeOf (.recordWrite 10 false) 448 96) .running).awaits 0
      (.recordWrite 10 false) ∧
    (writing .recWrite (writeOf (.recordWrite 10 true) 448 96) .running).awaits 0 (.recordWrite 10 true) ∧
    (∀ i, ((writing .recWrite (writeOf (.recordWrite 10 false) 448 96) .running).slot i).closing = none) ∧
    (writing .recWrite (writeOf (.recordWrite 10 false) 448 96) .running).stopping = false := by decide +kernel

/-- The append window's place goes to a closing record that is due. -/
theorem witness_RecordWriteDone_due :
    ¬ ((List.filter (fun r : Header => decide (r.pos ≠ 10)) [before 10]).length +
      (List.replicate 8 (⟨1, .commit⟩ : DueClose)).length < 8) ∧
    (List.filter (fun r : Header => decide (r.pos ≠ 10)) [before 10]).length + up.log.due.length < 8 := by decide +kernel

/-- A recovery that is to stop. -/
def stopping (s : State) : State :=
  { s with bridge := .recovering, start := some { starting .recover .rollback with stopping := true } }

/-- A closing record is noted and stays incomplete: its own write is still pending, or the record below it is. In FAULTED,
and in a recovery that is to stop. -/
theorem witness_RecordWriteDone_closing :
    (let s := withSlot up { slotAs .committing with closing := some 13 }
    let own := awaiting (windowed s [before 10, commitRec 13] 14) (writeOf (.recordWrite 10 false) 448 96)
    let below := awaiting (windowed s [before 10, commitRec 13] 14) (writeOf (.recordWrite 13 false) 544 32)
    (∀ t ∈ [own, { own with bridge := .faulted }, stopping own], t.awaits 0 (.recordWrite 10 false) ∧
      t.windowAt 10 = some (before 10) ∧ (t.slot 0).closing = some 13 ∧ ∀ j, j ≠ 0 → (t.slot j).closing = none) ∧
    (∃ r ∈ own.log.window, r.pos ≠ 10 ∧ r.pos ≤ 13) ∧ below.awaits 0 (.recordWrite 13 false) ∧
    ∃ r ∈ below.log.window, r.pos ≠ 13 ∧ r.pos ≤ 13) := by
  decide +kernel

/-- Slot 0 in a closing state, its closing record written at position 13 and waited for by a mark. -/
def ending (st : SlotState) (w : Option Waiter) : State :=
  awaiting (flying (windowed (claimed (withSlot up { slotAs st with closing := some 13, waiter := w, cause := some .mark }) 0)
    [commitRec 13] 14) [⟨2, 9, .mark 1 .commit, .waiting⟩]) (writeOf (.recordWrite 13 false) 544 32)

theorem witness_GroupEnds : (ending .committing (some ⟨2, 9, .commit⟩)).awaits 0 (.recordWrite 13 false) ∧
    (ending .committing none).windowAt 13 = some (commitRec 13) ∧
    ((ending .rollingBack (some ⟨2, 9, .commit⟩)).slot 0).closing = some 13 ∧
    (∀ j, j ≠ 0 → ((ending .broken none).slot j).closing = none) ∧
    (∀ r ∈ (ending .broken none).log.window, r.pos ≠ 13 → 13 < r.pos) ∧ 13 < (ending .broken none).log.head ∧
    (ending .broken none).bridge = .running ∧ (ending .broken none).stopping = false := by decide +kernel

/-- The closing record at 13 is durable and waits for the BEFORE at 10; the closing record of slot 1 at 16 has yet to
become durable. -/
def endingBelow (st : SlotState) (b : Bridge) : State :=
  let s := withSlot up { slotAs st with closing := some 13, cause := some .mark }
  let r := { s with grp := { s.grp with slots := s.grp.slots.set 1 { slotAs .committing with closing := some 16 } } }
  { awaiting (windowed r [before 10, commitRec 16] 17) (writeOf (.recordWrite 10 false) 448 96) with bridge := b }

theorem witness_GroupEnds_below : ∀ b ∈ [Bridge.running, .draining, .recovering],
    ∀ st ∈ [SlotState.committing, .rollingBack, .broken],
    (endingBelow st b).awaits 0 (.recordWrite 10 false) ∧ (endingBelow st b).windowAt 10 = some (before 10) ∧
    ((endingBelow st b).slot 0).closing = some 13 ∧ ((endingBelow st b).slot 1).closing = some 16 ∧
    (∀ r ∈ (endingBelow st b).log.window, r.pos ≠ 10 → 13 < r.pos) ∧ 13 < (endingBelow st b).log.head ∧
    (∃ r ∈ (endingBelow st b).log.window, r.pos ≠ 10 ∧ r.pos ≤ 16) ∧ (endingBelow st b).stopping = false := by
  decide +kernel

/-- The closing records of slots 1 and 0, at 13 and 16, wait for the BEFORE at 10; the other slots note none. -/
def endingTwo (b : Bridge) : State :=
  let s := withSlot up { slotAs .committing with closing := some 16 }
  let r := { s with grp := { s.grp with slots := s.grp.slots.set 1 { slotAs .rollingBack with closing := some 13 } } }
  { awaiting (windowed r [before 10] 17) (writeOf (.recordWrite 10 false) 448 96) with bridge := b }

/-- Two closing records complete in one step, the lower position first; a recovery that is to stop. -/
theorem witness_GroupEnds_two : ∀ s ∈ [endingTwo .running, stopping (endingTwo .running)],
    s.awaits 0 (.recordWrite 10 false) ∧ s.windowAt 10 = some (before 10) ∧ s.bridge ≠ .faulted ∧
    (s.slot 1).closing = some 13 ∧ (s.slot 0).closing = some 16 ∧ (s.slot 2).closing = none ∧ (s.slot 3).closing = none ∧
    (∀ r ∈ s.log.window, r.pos ≠ 10 → 16 < r.pos) ∧ 16 < s.log.head ∧ (s.slot 1).state = .rollingBack ∧
    (s.slot 0).state = .committing ∧ (after (.recordWriteDone 0) s).log.window = [] := by decide +kernel

/-- The stop point of R133 is the answer of the recovery's ROLLBACK record. -/
theorem test_stop_at_record : (after (.recordWriteDone 0) (stopping (ending .rollingBack none))).bridge = .gated := by
  decide +kernel

theorem witness_RecordRetry : (ending .committing none).awaits 0 (.recordWrite 13 false) ∧
    (commitRec 13).kind ≠ .before ∧ (ending .committing none).bridge ≠ .faulted ∧
    ∀ b ∈ [Bridge.running, .draining, .recovering, .gated, .halted, .faulted],
      (writing .recWrite (writeOf (.recordWrite 10 true) 448 96) b).awaits 0 (.recordWrite 10 true) := by decide +kernel

/-- A pause that stands at the entry to FAULTED, with each kind of front request: a READ and a WRITE to a PASS line pass, a
WRITE to a READ_ONLY line is refused with RO_REGION, one to a JOURNALED line and a MARK with FAULTED (R35, R62, R145). -/
theorem test_paused_at_fault : ∀ p ∈ [(readAt 0x100000 8, none), (writeTo 0x8000 0, none),
      (writeTo 0x4080 0, some (Answer.refused .roRegion)), (writeTo 0x4000 1, some (.refused .faulted)),
      (markFor .commit, some (.refused .faulted)), (readAt 0x100000 0, some (.refused .malformed))],
    (let s := pausing (asks (writing .recWrite (writeOf (.recordWrite 10 true) 448 96) .running) p.1) .inFlight false
    let u := after (.recordRetryFailed 0 0) s
    s.awaits 0 (.recordWrite 10 true) ∧ s.host.paused ≠ none ∧ u.host.intake = [] ∧ u.host.paused = none ∧
      u.mport.trafficQ.length = (if p.2 = none then 1 else 0) ∧
      u.host.responses.map (·.answer) = p.2.toList ++ [.failed .faulted]) := by decide +kernel

theorem witness_DataWriteAnswered :
    (writing .dataIssued (writeOf (.dataWrite 2 0) 0x100000 64) .running).awaits 0 (.dataWrite 2 0) ∧
    (writing .dataIssued (writeOf (.dataWrite 2 0) 0x100000 64) .running).findInflight 2 0 =
      some (theWrite .dataIssued) := by decide +kernel

/-- The data write of slot 0 in a state with a number of writes in flight, damaged or not, with a waiter; a held write of its
key and an entry that waits on it by ORDER. -/
def closingAs (st : SlotState) (n : Nat) (damaged : Bool) (b : Bridge) : State :=
  holding (withSlot (writing .dataIssued (writeOf (.dataWrite 2 0) 0x100000 64) b)
    { slotAs st with inflight := n, damaged := damaged, waiter := some ⟨2, 5, .commit⟩ })
    [heldWrite .logSpace false, { heldWrite (.order 2 3) false with req := ⟨2, 4, .read 0x100000 1⟩ }]

/-- Every clause of the closing step, its in-flight count falling to 0 or staying above it, and the OPEN slot. -/
theorem witness_DataWriteAnswered_closing :
    ∀ st ∈ [SlotState.committing, .rollbackWait, .opened], ∀ n ∈ [1, 2], ∀ d ∈ [true, false],
      ∀ b ∈ [Bridge.running, .draining, .faulted],
      (let s := closingAs st n d b
      s.awaits 0 (.dataWrite 2 0) ∧ s.findInflight 2 0 = some (theWrite .dataIssued) ∧ (s.slot 0).state = st ∧
        (s.slot 0).inflight - 1 = n - 1 ∧ (s.slot 0).damaged = d ∧ s.mem.wf = true) := by decide +kernel

/-- The closing step of R96 and R98 by the damaged flag; none in FAULTED (R146) and none before the last answer. -/
theorem test_closing_step :
    (after (.dataWriteDone 0) (closingAs .committing 1 false .running)).log.due = [⟨0, .commit⟩] ∧
    (∀ s ∈ [after (.dataWriteDone 0) (closingAs .committing 1 true .draining),
        after (.dataWriteFailed 0 0) (closingAs .committing 1 false .running)],
      (s.slot 0).state = .rollbackWait ∧ (s.slot 0).cause = some .damaged ∧ (s.slot 0).waiter = some ⟨2, 5, .commit⟩ ∧
        s.grp.queue = [0] ∧ s.log.due = []) ∧
    (after (.dataWriteDone 0) (closingAs .rollbackWait 1 false .running)).grp.queue = [0] ∧
    (∀ s ∈ [after (.dataWriteDone 0) (closingAs .committing 1 false .faulted),
        after (.dataWriteDone 0) (closingAs .committing 2 false .running)],
      s.log.due = [] ∧ s.grp.queue = [] ∧ (s.slot 0).state = .committing) := by decide +kernel

/-- A failed data write of an OPEN group: its held write is refused with DAMAGED, the entry behind it is marked, and the
write is answered MEM_ERROR (R49, R72, R84, R86; the order: log 29). -/
theorem test_damage_open :
    (let s := after (.dataWriteFailed 0 0) (closingAs .opened 1 false .running)
    (s.slot 0).damaged = true ∧ (s.slot 0).state = .opened ∧ s.host.holds.map (·.marked) = [true] ∧
      s.host.responses.map (fun r => (r.tag, r.answer)) =
        [(3, .refused .damaged), (0, .failed .memError)]) := by decide +kernel

/-! ### Anchors, the rollback engine, power and START -/

/-- An anchor write for a use, OUTSTANDING in a bridge state. -/
def anchorOut (u : AnchorUse) (st : AnchorState) (b : Bridge) : State :=
  { awaiting (anchoring up (.writing .b (someAnchor st) u)) (writeOf .anchorWrite 64 64) with bridge := b }

/-- A failure count. -/
def failedOnce (s : State) : State := { s with log := { s.log with failures := 1 } }

/-- A noted follow-up past the anchor's tail. -/
def followed : State :=
  let s := anchorOut .running .active .running
  { s with log := { s.log with followUp := true, head := 5, volatileTail := 5 } }

theorem witness_AnchorWriteAnswered : (anchorOut .running .active .running).awaits 0 .anchorWrite ∧
    followed.awaits 0 .anchorWrite ∧ (someAnchor .active).tail < followed.log.volatileTail ∧
    (anchorOut .drain .clean .draining).awaits 0 .anchorWrite ∧
    (failedOnce (anchorOut .running .active .running)).awaits 0 .anchorWrite ∧
    (anchoring up (.retryWait .b 0 .running)).log.anchorOp = .retryWait .b 0 .running ∧
    ¬ (1 ≤ up.now) := by decide +kernel

/-- In FAULTED an anchor write is still answered; one handed over and not issued at the fault entry stays in the queue (log
49), and a retry that waits is dropped (R23). -/
theorem witness_AnchorWriteAnswered_faulted :
    (∀ u ∈ [AnchorUse.running, .drain], (anchorOut u .active .faulted).awaits 0 .anchorWrite) ∧
    (let s := { awaiting (anchoring up (.writing .b (someAnchor .active) .running)) (writeOf (.recordWrite 10 true) 448 96)
      with mport := { (awaiting up (writeOf (.recordWrite 10 true) 448 96)).mport with logQ := [writeOf .anchorWrite 64 64] } }
    s.awaits 0 (.recordWrite 10 true) ∧ (after (.recordRetryFailed 0 0) s).bridge = .faulted ∧
      (after (.recordRetryFailed 0 0) s).mport.logQ = [writeOf .anchorWrite 64 64]) ∧
    (let s := anchoring (awaiting up (writeOf (.recordWrite 10 true) 448 96)) (.retryWait .b 0 .running)
    (after (.recordRetryFailed 0 0) s).log.anchorOp = .idle) := by decide +kernel

/-- Two writes of different lines in FRONTIER_WAIT behind a clean barrier, their records durable. -/
def barred : State :=
  { flying (anchorOut .running .active .running) [theWrite .frontierWait,
      ⟨2, 1, .journaled 0x4001 1 bytes64 0 none, .frontierWait⟩] with
    log := { (anchorOut .running .active .running).log with newest := some ⟨.a, 1, .clean, 0⟩, head := 13 } }

/-- The barrier's anchor opens it: both data phases may begin, and their data writes join in admission order (R15, R67;
the order: log 48). -/
theorem test_barrier_opens : (after (.anchorWriteDone 0) barred).mport.trafficQ.map MReq.ref =
    [.dataWrite 2 0, .dataWrite 2 1] ∧ barred.promote = barred := by decide +kernel

/-- Slot 0 waits for its rollback. -/
def queued (b : Bridge) : State :=
  let s := withSlot up (slotAs .rollbackWait)
  { s with grp := { s.grp with queue := [0] }, bridge := b }

theorem witness_RollbackTakesSlot : (queued .running).grp.walk = none ∧ (queued .running).grp.queue = 0 :: [] ∧
    (queued .recovering).stopping = false ∧ (queued .draining).bridge ≠ .running := by decide +kernel

/-- Recovery is to stop: no slot is taken (R133; log 18). -/
theorem witness_RollbackTakesSlot_stopping :
    (let s := { queued .recovering with start := some { starting .recover .rollback with stopping := true } }
    s.grp.walk = none ∧ s.grp.queue = [0] ∧ s.stopping = true ∧ (after .rollbackTakeSlot s).grp = s.grp) := by
  decide +kernel

/-- Memory holds this record of slot 0's group at position 10, and the walk reads it. -/
def walking (h : Header) (b : Bridge) : State :=
  let s := withSlot up { slotAs .rollingBack with first := if h.back = 0 then 10 else 7 }
  { awaiting { s with grp := { s.grp with walk := some ⟨0, 10, .reading, .none⟩ } }
      (readOf (.walkRead 10) (128 + 320) 96) with
    bridge := b
    mem := memoryOf (128 + 320) (match h.kind with | .before => h.bytesWith bytes64 | _ => h.bytes) }

/-- The READ that a walking part awaits returns the record that memory holds, which passes the tests it must. -/
theorem witness_WalkReadAnswered : ∀ h ∈ [before 10, { before 10 with back := 3 }, (before 10).voided,
      { (before 10).voided with back := 3 }], ∀ b ∈ [Bridge.running, .draining],
    (walking h b).awaits 0 (.walkRead 10) ∧
    (walking h b).walkTest ⟨0, 10, .reading, .none⟩ ((walking h b).readData 0 []) = none := by decide +kernel

/-- A record of another position, and no record at all. -/
theorem witness_WalkReadAnswered_fails :
    (walking (before 11) .running).walkTest ⟨0, 10, .reading, .none⟩ ((walking (before 11) .running).readData 0 []) =
      some .mismatch ∧
    (RawHeader.parse ({ walking (before 10) .running with mem := [] }.readData 0 [])).checkPasses
      ({ walking (before 10) .running with mem := [] }.readData 0 []) = false := by decide +kernel

/-- A READ of a walk record is OUTSTANDING in a walk of this phase. -/
def reading (p : WalkPhase) (pos : Nat) (b : Bridge) : State :=
  let s := withSlot up (slotAs .rollingBack)
  { awaiting { s with grp := { s.grp with walk := some ⟨0, 10, p, .pending⟩ } } (readOf (.walkRead pos) 448 96) with
    bridge := b }

/-- Every phase of a walk in every bridge state, with and without a stop, and no walk at all. -/
theorem witness_WalkReadAnswered_phases :
    (∀ p ∈ [WalkPhase.ending, .reading, .restoring 3, .suspended],
      ∀ b ∈ [Bridge.running, .draining, .halted, .faulted, .recovering],
      (reading p 10 b).awaits 0 (.walkRead 10) ∧ (reading p 10 b).stopping = false ∧
      (reading p 10 b).grp.walk = some ⟨0, 10, p, .pending⟩ ∧ ((reading p 10 b).tag 0).req.write = false) ∧
    (∀ p ∈ [WalkPhase.reading, .restoring 3], (stopping (reading p 10 .running)).stopping = true ∧
      (stopping (reading p 10 .running)).awaits 0 (.walkRead 10)) ∧
    (awaiting up (readOf (.walkRead 10) 448 96)).grp.walk = none := by decide +kernel

/-- A walk that fails in RECOVERING leaves its slot BROKEN and the bridge FAULTED (R105, R143). -/
theorem test_walk_fails_in_recovery :
    (let t := after (.walkReadAnswered 0 (.error 0)) { reading .reading 10 .recovering with
      start := some (starting .recover .rollback) }
    t.bridge = .faulted ∧ (t.slot 0).state = .broken ∧ t.notes.queue.map Notice.kind =
      [.groupBroken, .recoveryFailed, .logFaulted]) := by decide +kernel

/-- A restore of slot 0's record is OUTSTANDING. -/
def restoring (back : Nat) (a : ReadAhead) (b : Bridge) : State :=
  let s := withSlot up (slotAs .rollingBack)
  { awaiting { s with grp := { s.grp with walk := some ⟨0, 10, .restoring back, a⟩ } } (writeOf .restore 0x100000 64) with
    bridge := b }

theorem witness_RestoreAnswered : ∀ back ∈ [0, 3], ∀ a ∈ [ReadAhead.none, .pending], ∀ b ∈ [Bridge.running, .draining],
    (restoring back a b).awaits 0 .restore ∧ (restoring back a b).grp.walk = some ⟨0, 10, .restoring back, a⟩ ∧
    (restoring back a b).stopping = false ∧ (restoring back a b).mem.wf = true := by decide +kernel

/-- Every phase of a walk, in FAULTED and in a recovery too, with and without a stop, and each answer a read-ahead may have
had. -/
theorem witness_RestoreAnswered_phases :
    (∀ p ∈ [WalkPhase.ending, .reading, .suspended],
      (awaiting (reading p 7 .running) (writeOf .restore 0x100000 64)).awaits 0 .restore) ∧
    (∀ a ∈ [ReadAhead.none, .pending, .kept (List.replicate 96 0), .keptError],
      ∀ b ∈ [Bridge.running, .draining, .recovering, .faulted],
      (restoring 3 a b).awaits 0 .restore ∧ (restoring 3 a b).grp.walk = some ⟨0, 10, .restoring 3, a⟩ ∧
      (restoring 3 a b).stopping = false) ∧
    (stopping (restoring 3 .pending .running)).awaits 0 .restore ∧ (stopping (restoring 3 .pending .running)).stopping = true ∧
    (awaiting up (writeOf .restore 0x100000 64)).grp.walk = none := by decide +kernel

/-- The PFW pin is low. -/
def pfwLow (b : Bridge) : State := { up with bridge := b, pfwHigh := false }

/-- A recovery that waits for no answer. -/
def recovering : State := { up with bridge := .recovering, start := some (starting .recover .rollback) }

theorem witness_PfwEdges : up.pfwAsserted = false ∧ (pfwLow .halted).pfwAsserted = true ∧ up.host.paused = none ∧
    recovering.start ≠ none ∧ recovering.finalIssued = false ∧ recovering.log.window = [] ∧
    (∀ i, (recovering.tag i).state ≠ .outstanding) ∧ up.link.policy.resumePolicy = .auto ∧
    (at_ .halted).pfwAsserted = false := by decide +kernel

/-- A pause that stands at the drain entry: a READ of a line that is rolling back is refused with HALTED, another passes, a
WRITE is refused with HALTED (R35, R62, R123). -/
theorem test_paused_at_drain :
    (let u := fun r => after .pfwAssert (pausing (asks (rollingLine .running) r) .inFlight false)
    (u (readAt 0x100000 8)).host.responses.map (·.answer) = [.refused .halted] ∧
    (u (readAt 0x200000 8)).mport.trafficQ = [readOf (.passRead 2 0) 0x200000 8] ∧
    (u (writeTo 0x8000 0)).host.responses.map (·.answer) = [.refused .halted] ∧
    (u (readAt 0x200000 8)).bridge = .draining) := by decide +kernel

/-- A recovery that is told to stop: its final anchor is issued; nothing is awaited; it waits for a restore, outstanding or
handed over, or for a record in the window. -/
theorem witness_PfwEdges_recovering :
    (let s := { anchorOut .recovery .clean .recovering with start := recovering.start }
    s.awaits 0 .anchorWrite ∧ s.log.anchorOp = .writing .b (someAnchor .clean) .recovery ∧ s.pfwAsserted = false) ∧
    (∀ s ∈ [{ restoring 3 .none .recovering with start := recovering.start },
        windowed recovering [commitRec 20] 21,
        { recovering with mport := { up.mport with rollbackQ := [writeOf .restore 0x100000 64] } }],
      s.pfwAsserted = false ∧ s.finalIssued = false ∧ (after .pfwAssert s).bridge = .recovering) ∧
    (after .pfwAssert recovering).bridge = .gated := by decide +kernel

/-- Requests that are handed over and not issued stay in their queue when recovery stops, and the answers of the engine's
reach no requester; an anchor that is not issued is not written (R121, R133; log 18). -/
theorem test_stop_keeps_queues :
    (let s := { recovering with mport := { up.mport with
      logQ := [writeOf .anchorWrite 0 64, writeOf (.recordWrite 10 false) 448 96]
      rollbackQ := [readOf .scanRead 448 96] } }
    (after .pfwAssert s).bridge = .gated ∧ (after .pfwAssert s).mport.logQ = [writeOf (.recordWrite 10 false) 448 96] ∧
    (after .pfwAssert s).mport.rollbackQ = [readOf .dropped 448 96]) := by decide +kernel

theorem witness_DrainEnds : (at_ .draining).drainOver = true ∧ up.drainOver = false ∧
    (anchorOut .drain .clean .draining).awaits 0 .anchorWrite ∧ up.mem.wf = true := by decide +kernel

theorem witness_DrainEnds_faulted : (anchorOut .drain .active .faulted).awaits 0 .anchorWrite ∧
    (anchorOut .drain .active .faulted).log.anchorOp = .writing .b (someAnchor .active) .drain := by decide +kernel

/-- A stopped walk, in HALTED with the resume delay over. -/
def stopped : State :=
  { at_ .halted with grp := { up.grp with walk := some ⟨0, 10, .suspended, .none⟩ }, resumeAt := some 0 }

theorem witness_ResumeReturns : stopped.linkReady ∧ stopped.bridge = .halted ∧ stopped.pfwAsserted = false ∧
    stopped.resumeAt = some 0 ∧ 0 ≤ stopped.now ∧ (at_ .halted).grp.walk = none ∧ up.bridge ≠ .halted ∧
    (pfwLow .halted).pfwAsserted = true := by decide +kernel

/-- A walk stopped by a drain whose read-ahead waits for its answer, has had it, or has failed. -/
theorem witness_ResumeReturns_ahead : ∀ a ∈ [ReadAhead.none, .pending, .kept (List.replicate 96 0), .keptError],
    (let s : State := { stopped with grp := { up.grp with walk := some ⟨0, 10, .suspended, a⟩ } }
    s.linkReady ∧ s.grp.walk = some ⟨0, 10, .suspended, a⟩ ∧ (after .resume s).bridge = .running ∧
      (after .resumeDelayExpiry s).bridge = .running) := by decide +kernel

theorem witness_Resets : up.power = true := rfl

theorem witness_StartTaken : State.reset.linkReady ∧ State.reset.log.geometry = none ∧
    (at_ .gated).linkReady ∧ (at_ .gated).log.geometry ≠ none ∧ (at_ .gated).startBusy = false ∧
    (at_ .gated).link.lock.val = 0 ∧ (at_ .gated).pfwAsserted = false ∧
    (flying (at_ .faulted) [theWrite .dataIssued]).startBusy = true ∧ up.bridge ≠ .gated := by decide +kernel

/-- A restore of an old run is still OUTSTANDING, and the READ of an anchor copy still waits. -/
theorem witness_StartTaken_stale :
    (let s := awaiting (at_ .gated) (writeOf .restore 0x100000 64)
    s.linkReady ∧ s.startBusy = false ∧ (s.tag 0).req.ref.ofRollback = true) ∧
    (readOf (.anchorRead .b) 64 64).ref.ofRollback = true := by decide +kernel

/-- START RECOVER with PFW asserted. -/
theorem witness_StartTaken_pfw : (pfwLow .gated).linkReady ∧ (pfwLow .gated).pfwAsserted = true ∧
    (pfwLow .gated).log.geometry ≠ none ∧ (after .startRecover (pfwLow .gated)).mport = up.mport ∧
    (after .startRecover (pfwLow .gated)).bridge = .gated := by decide +kernel

/-- One anchor copy's READ is OUTSTANDING, the other copy is read, and memory holds this anchor at base. -/
def readingAnchor (m : StartMode) (other : CopyRead) (a : Anchor) : State :=
  { awaiting { at_ (if m = .fresh then .gated else .recovering) with
      start := some { starting m .anchors with copyA := .pending, copyB := other } } (readOf (.anchorRead .a) 0 64) with
    mem := memoryOf 0 a.bytes }

theorem witness_AnchorReadAnswered : ∀ m ∈ [StartMode.fresh, .recover], ∀ o ∈ [CopyRead.pending, .invalid],
    (readingAnchor m o (someAnchor .active)).awaits 0 (.anchorRead .a) ∧
    CopyRead.ofBytes ((readingAnchor m o (someAnchor .active)).readData 0 []) = .valid (someAnchor .active) ∧
    CopyRead.ofBytes ({ readingAnchor m o (someAnchor .active) with mem := [] }.readData 0 []) = .invalid := by
  decide +kernel

/-- A recovery that is to stop waits for the answer of an anchor READ or a scan READ. -/
theorem witness_AnchorReadAnswered_stopping : ∀ r ∈ [Ref.anchorRead .a, .scanRead],
    (stopping (awaiting up (readOf r 0 64))).awaits 0 r ∧ (stopping (awaiting up (readOf r 0 64))).stopping = true ∧
    ((awaiting up (readOf r 0 64)).tag 0).req.write = false ∧
    (after .pfwAssert { stopping (awaiting up (readOf r 0 64)) with start := recovering.start }).bridge = .recovering := by
  decide +kernel

/-- Anchors at the ends of their fields' ranges; the order of two serials. -/
theorem witness_AnchorReadAnswered_layout :
    (∀ a ∈ [(⟨2 ^ 64 - 1, 2 ^ 32 - 1, .active, 21, 2 ^ 64 - 1⟩ : Anchor), ⟨0, 1, .clean, 7, 0⟩],
      a.serial < 2 ^ 64 ∧ a.gen < 2 ^ 32 ∧ a.exponent < 256 ∧ a.tail < 2 ^ 64 ∧ a.gen ≠ 0 ∧ 7 ≤ a.exponent ∧
        a.exponent ≤ 21) ∧
    (⟨2, 1, .clean, 7, 0⟩ : Anchor).serial ≤ (⟨2, 9, .active, 7, 0⟩ : Anchor).serial ∧
    (⟨2, 1, .clean, 7, 0⟩ : Anchor).serial < (⟨3, 1, .clean, 7, 0⟩ : Anchor).serial := by decide +kernel

theorem witness_FreshAnchorAnswered : ∀ u ∈ [AnchorUse.freshFirst, .freshSecond],
    (anchorOut u .clean .gated).awaits 0 .anchorWrite ∧
    (anchorOut u .clean .gated).log.anchorOp = .writing .b (someAnchor .clean) u := by decide +kernel

theorem witness_FreshAnchorAnswered_pfw : ({ anchorOut .freshSecond .clean .gated with pfwHigh := false }.pfwAsserted) = true ∧
    (anchorOut .freshSecond .clean .gated).pfwAsserted = false ∧
    { anchorOut .freshSecond .clean .gated with pfwHigh := false }.awaits 0 .anchorWrite := by decide +kernel

/-- The scan reads position 20, where memory holds this record. -/
def scanning (s : State) (h : Header) : State :=
  { awaiting { s with bridge := .recovering, start := some (starting .recover .scan) } (readOf .scanRead (128 + 640) 96) with
    mem := memoryOf (128 + 640) (match h.kind with | .before => h.bytesWith bytes64 | _ => h.bytes) }

/-- Its group's first record; a later one of a group with newest position 10; its COMMIT; a PAD to the ring end. -/
theorem witness_ScanReadAnswered :
    (∀ p ∈ [(up, before 20), (withSlot up (slotAs .opened), { before 20 with back := 10 }),
        (withSlot up (slotAs .opened), commitRec 20), (up, ⟨.pad, 108, Key.zero, false, 20, 1, 0, 0, 0, 0, 0⟩)],
      (scanning p.1 p.2).awaits 0 .scanRead ∧ (scanning p.1 p.2).scanValid (starting .recover .scan) 20
        ((scanning p.1 p.2).readData 0 []) = true) ∧
    ({ scanning up (before 20) with mem := [] }.scanValid (starting .recover .scan) 20
      ({ scanning up (before 20) with mem := [] }.readData 0 [])) = false ∧
    up.findSlot ⟨2, 1⟩ = none ∧ up.freeSlot = some 0 ∧ (withSlot up (slotAs .opened)).findSlot ⟨2, 1⟩ = some 0 := by
  decide +kernel

/-- Each row of R140 with the part it is read in: taken, no slot left, passed over, too young to pass over, extended, not
its group's newest, freed, a count that differs, passed over, and a PAD. -/
theorem witness_ScanReadAnswered_rows : ∀ p ∈
      [(up, before 20), (allInUse, before 20), (up, { before 20 with back := 1 }),
        ({ up with start := none }, { (before 20).voided with back := 20 }),
        (withSlot up (slotAs .opened), { before 20 with back := 10 }), (withSlot up (slotAs .opened), { before 20 with back := 9 }),
        (withSlot up (slotAs .opened), commitRec 20), (withSlot up (slotAs .opened), { commitRec 20 with records := 2 }),
        (up, { commitRec 20 with kind := .rollback }), (up, ⟨.pad, 108, Key.zero, false, 20, 1, 0, 0, 0, 0, 0⟩)],
    (scanning p.1 p.2).scanValid (starting .recover .scan) 20 ((scanning p.1 p.2).readData 0 []) = true := by decide +kernel

/-- A record that ends at T + N, where the scan ends behind it. -/
theorem witness_ScanReadAnswered_end :
    let o : StartOp := { starting .recover .scan with tail := 20, scanPos := 145 }
    let h : Header := { before 145 with back := 145 }
    let s := { at_ .recovering with start := some o, mem := memoryOf (128 + 32 * 17) (h.bytesWith bytes64) }
    let r := awaiting s (readOf .scanRead (128 + 32 * 17) 96)
    r.scanValid o 145 (r.readData 0 []) = true ∧ 145 + h.slots = o.tail + r.geo.slots := by decide +kernel

theorem witness_RecoveryEnds : recovering.start = some (starting .recover .rollback) ∧
    recovering.recoveryOver (starting .recover .rollback) = true ∧
    (anchorOut .recovery .clean .recovering).awaits 0 .anchorWrite ∧ up.mem.wf = true := by decide +kernel

theorem witness_RecoveryEnds_pfw : ∀ high ∈ [true, false],
    (let s := { anchorOut .recovery .clean .recovering with start := recovering.start, pfwHigh := high }
    s.awaits 0 .anchorWrite ∧ s.pfwAsserted = !high) := by decide +kernel

theorem witness_StopTaken : up.linkReady ∧ up.stopTaken = true ∧ up.host.paused = none ∧
    (withSlot up (slotAs .opened)).stopTaken = false ∧
    (∀ u ∈ [AnchorUse.stop, .beforeStop], (anchorOut u .clean .gated).awaits 0 .anchorWrite) ∧
    (anchorOut .running .active .running).stopTaken = true := by decide +kernel

/-- STOP with a pause standing, whose table may have freed room since: a READ passes in GATED, a WRITE is refused (R34, R62,
R144). -/
theorem witness_StopTaken_paused :
    (∀ freed ∈ [true, false], ∀ room ∈ [Room.inFlight, .window], ∀ r ∈ [readAt 0x100000 8, writeTo 0x4000 1, markFor .commit],
      (let s := pausing (asks up r) room freed
      s.linkReady ∧ s.stopTaken = true ∧ s.host.paused ≠ none ∧ s.host.intake = [⟨r, false⟩])) ∧
    (after .stop (pausing (asks up (readAt 0x100000 8)) .inFlight true)).mport.trafficQ =
      [readOf (.passRead 2 0) 0x100000 8] ∧
    (after .stop (pausing (asks up (writeTo 0x4000 1)) .window false)).host.responses.map (·.answer) = [.refused .gated] ∧
    ((anchorOut .running .active .running).log.anchorOp = .writing .b (someAnchor .active) .running) := by decide +kernel

end Sys2Proof.Tests
end

section
/-! Good states: the invariant `State.good` holds after reset and after every step. -/

namespace Sys2Proof.Machine

/-! ### The invariant of good states -/

/-- Every command keeps the memory's form, the bounds of the tables and the credits. -/
theorem kept_exec (i : Instr) (s : State) : OutKept s (exec i s) := by
  cases i with
  | hostRequest r => exact kept_execHostRequest r s
  | admitWrite => exact kept_execAdmitWrite s
  | admitRead => exact kept_execAdmitRead s
  | markCommit => exact kept_execMarkCommit s
  | markAbandon => exact kept_execMarkAbandon s
  | responseSent => exact kept_execResponseSent s
  | holdReevaluate => exact kept_execHoldReevaluate s
  | holdTimeout source tag => exact kept_execHoldTimeout source tag s
  | idleExpiry slot => exact kept_execIdleExpiry slot s
  | closingRecordAllocate => exact kept_execClosingRecordAllocate s
  | mportGrant => exact kept_execMportGrant s
  | responseLimitExpiry tag => exact kept_execResponseLimitExpiry tag s
  | lateResponse tag ans => exact kept_execLateResponse tag ans s
  | preResetResponse tag ans => exact kept_execPreResetResponse tag ans s
  | biReadDone tag raced => exact kept_execBiReadDone tag raced s
  | biReadFailed tag => exact kept_execBiReadFailed tag s
  | recordWriteDone tag => exact kept_execRecordWriteDone tag s
  | recordWriteFailed tag landed => exact kept_execRecordWriteFailed tag landed s
  | recordRetryFailed tag landed => exact kept_execRecordRetryFailed tag landed s
  | dataWriteDone tag => exact kept_execDataWriteDone tag s
  | dataWriteFailed tag landed => exact kept_execDataWriteFailed tag landed s
  | passReadAnswered tag ans => exact kept_execPassReadAnswered tag ans s
  | passWriteAnswered tag ans => exact kept_execPassWriteAnswered tag ans s
  | anchorWriteDone tag => exact kept_execAnchorWriteDone tag s
  | anchorWriteFailed tag landed => exact kept_execAnchorWriteFailed tag landed s
  | anchorRetry => exact kept_execAnchorRetry s
  | rollbackTakeSlot => exact kept_execRollbackTakeSlot s
  | walkReadAnswered tag ans => exact kept_execWalkReadAnswered tag ans s
  | restoreAnswered tag ans => exact kept_execRestoreAnswered tag ans s
  | pfwAssert => exact kept_execPfwAssert s
  | pfwDeassert => exact kept_execPfwDeassert s
  | drainEnd => exact kept_execDrainEnd s
  | drainDone tag => exact kept_execDrainDone tag s
  | resumeDelayExpiry => exact kept_execResumeDelayExpiry s
  | warmReset => exact kept_execWarmReset s
  | powerOnReset straps pfwHigh landed => exact kept_execPowerOnReset straps pfwHigh landed s
  | anchorReadAnswered tag ans => exact kept_execAnchorReadAnswered tag ans s
  | freshAnchorAnswered tag ans => exact kept_execFreshAnchorAnswered tag ans s
  | scanReadAnswered tag ans => exact kept_execScanReadAnswered tag ans s
  | recoveryFinalAnchor => exact kept_execRecoveryFinalAnchor s
  | recoveryDone tag ans => exact kept_execRecoveryDone tag ans s
  | stopAnchorAnswered tag ans => exact kept_execStopAnchorAnswered tag ans s
  | commandFrame address bytes => exact kept_execCommandFrame address bytes s
  | getIdent => exact kept_execGetIdent s
  | getState => exact kept_execGetState s
  | setLog base exponent => exact kept_execSetLog base exponent s
  | setRegion p => exact kept_execSetRegion p s
  | clearRegion index => exact kept_execClearRegion index s
  | getRegion index => exact kept_execGetRegion index s
  | setPolicy p => exact kept_execSetPolicy p s
  | getPolicy => exact kept_execGetPolicy s
  | startFresh => exact kept_execStartFresh s
  | startRecover => exact kept_execStartRecover s
  | stop => exact kept_execStop s
  | resume => exact kept_execResume s
  | abandonGroup source group => exact kept_execAbandonGroup source group s
  | releaseBroken source group => exact kept_execReleaseBroken source group s
  | getGroup slot => exact kept_execGetGroup slot s
  | popNotice => exact kept_execPopNotice s
  | setNoticeMask mask => exact kept_execSetNoticeMask mask s
  | getCounters => exact kept_execGetCounters s
  | clearCounters => exact kept_execClearCounters s
  | setLock level => exact kept_execSetLock level s
  | powerLoss landed => exact kept_execPowerLoss landed s
  | markOtherKind => exact kept_execMarkOtherKind s

/-- What is kept is kept good. -/
theorem Kept.good {s t : State} (k : Kept s t) (h : s.good) : t.good := by
  obtain ⟨hwf, hfits, hcredits⟩ := h
  exact ⟨k.wf hwf, k.fits hfits, k.credits hcredits⟩

/-- The command queue is no part of what makes a state good. -/
theorem good_withPending (s : State) (rest : List Instr) : ({ s with pending := rest } : State).good ↔ s.good := Iff.rfl

/-- Settles O4: the front command keeps what makes a state good, and so does the tick of an empty queue. -/
theorem stepKeepsGood : Obligations.StepKeepsGood := by
  intro s t hs h
  unfold step at h
  split at h
  · exact (out_live s State.tick kept_tick t h).good hs
  · rename_i c rest _
    exact (kept_exec c _ t h).good ((good_withPending s rest).2 hs)

/-- Settles O3: after a power-on reset nothing is stored, no table holds an entry, and no tag is in use. -/
theorem resetIsGood : Obligations.ResetIsGood :=
  ⟨rfl, powerOn_credits 0 true [] []⟩

end Sys2Proof.Machine
end

section
/-! How a row runs. A powered row acts; a management command's row takes the command; a row that answers an outstanding
request settles its tag and hands the answer to the requester's rule. One equation for each row that the statements below
speak of. -/

namespace Sys2Proof.Machine

/-! ### Powered rows and commands -/

theorem live_of_power {s : State} (h : s.power = true) (f : State → State) : live s f = .next (f s) := by
  simp [live, h]

/-- The state in which a command taken from a frame acts: the link is EXECUTING it and the previous answer is discarded
(R150). -/
def State.withCommand (s : State) (code : Nat) (params : List Byte) : State :=
  { s with link := { s.link with state := .executing code params, buffer := .none } }

theorem takeCommand_of_idle {s : State} (h : s.link.state = .idle) (code : Nat) (ps : List Byte) (act : State → State) :
    s.takeCommand code ps act = act (s.withCommand code ps) := by
  simp only [State.takeCommand, h]; rfl

/-- A command on a ready link acts on the state with the command taken. -/
theorem live_takeCommand {s : State} (h : s.linkReady) (code : Nat) (ps : List Byte) (act : State → State) :
    live s (fun s => s.takeCommand code ps act) = .next (act (s.withCommand code ps)) := by
  obtain ⟨hpower, hidle⟩ := h
  rw [live_of_power hpower, takeCommand_of_idle hidle]

/-! ### Rows that answer an outstanding request -/

/-- The state in which a requester acts on an answer: the tag is settled and an ERROR counted. -/
def State.withAnswer (s : State) (t : MTag) (a : MemAnswer) : State := (s.settle t a).countAnswer a

theorem answerTaken_withAnswer {s : State} {t : MTag} {a : MemAnswer} (h : (s.tag t).req.write = true → s.mem.wf = true) :
    AnswerTaken s (s.withAnswer t a) t a := answerTaken_settle s t a h

/-- The answer of a READ is taken whatever the memory, and leaves it. -/
theorem answerTaken_withAnswer_read {s : State} {t : MTag} (a : MemAnswer) (h : (s.tag t).req.write = false) :
    AnswerTaken s (s.withAnswer t a) t a ∧ (s.withAnswer t a).mem = s.mem :=
  ⟨answerTaken_settle s t a fun hw => absurd hw (by simp [h]), settle_mem_of_read s t a h⟩

section
variable (s : State) (t : MTag) (a : MemAnswer)

@[simp] theorem State.withAnswer_power : (s.withAnswer t a).power = s.power := by cases a <;> rfl
@[simp] theorem State.withAnswer_bridge : (s.withAnswer t a).bridge = s.bridge := by cases a <;> rfl
@[simp] theorem State.withAnswer_start : (s.withAnswer t a).start = s.start := by cases a <;> rfl
@[simp] theorem State.withAnswer_regions : (s.withAnswer t a).regions = s.regions := by cases a <;> rfl
@[simp] theorem State.withAnswer_host : (s.withAnswer t a).host = s.host := by cases a <;> rfl
@[simp] theorem State.withAnswer_grp : (s.withAnswer t a).grp = s.grp := by cases a <;> rfl
@[simp] theorem State.withAnswer_log : (s.withAnswer t a).log = s.log := by cases a <;> rfl
@[simp] theorem State.withAnswer_mport :
    (s.withAnswer t a).mport = { s.mport with tags := s.mport.tags.set t TagEntry.free } := by cases a <;> rfl
@[simp] theorem State.withAnswer_link : (s.withAnswer t a).link = s.link := by cases a <;> rfl
@[simp] theorem State.withAnswer_pfwHigh : (s.withAnswer t a).pfwHigh = s.pfwHigh := by cases a <;> rfl
@[simp] theorem State.withAnswer_resumeAt : (s.withAnswer t a).resumeAt = s.resumeAt := by cases a <;> rfl
@[simp] theorem State.withAnswer_now : (s.withAnswer t a).now = s.now := by cases a <;> rfl
@[simp] theorem State.withAnswer_pending : (s.withAnswer t a).pending = s.pending := by cases a <;> rfl
@[simp] theorem State.withAnswer_windowAt (pos : Nat) : (s.withAnswer t a).windowAt pos = s.windowAt pos := by
  cases a <;> rfl
@[simp] theorem State.withAnswer_ownerOf (pos : Nat) : (s.withAnswer t a).ownerOf pos = s.ownerOf pos := by
  cases a <;> rfl

end

/-- An answer that a powered row names for an awaited request reaches the requester's rule. -/
theorem live_takeAnswer {s : State} {t : MTag} {r : Ref} (hp : s.power = true) (h : s.awaits t r) (a : MemAnswer)
    (wanted : State → Ref → Bool) (act : State → State → MReq → State) (hw : wanted s r = true)
    (hd : r ≠ .dropped) (hr : r ≠ .preReset) :
    live s (fun s => s.takeAnswer t a (wanted s) (act s)) = .next (act s (s.withAnswer t a) (s.tag t).req) := by
  obtain ⟨hout, rfl⟩ := h
  rw [live_of_power hp, takeAnswer_of_awaits s t a _ _ hout hw hd hr]
  rfl

section
variable {s : State} {t : MTag} {pos : Nat} (hp : s.power = true)
include hp

theorem exec_biReadDone (raced : List Byte) (h : s.awaits t (.biRead pos)) :
    exec (.biReadDone t raced) s = .next ((s.withAnswer t (.done raced)).biReadDone pos (s.readData t raced)) := by
  change execBiReadDone t raced s = _
  refine (live_takeAnswer hp h _ (fun _ => Ref.isBiRead) _ rfl nofun nofun).trans ?_
  rw [h.2]

theorem exec_biReadFailed (h : s.awaits t (.biRead pos)) :
    exec (.biReadFailed t) s = .next ((s.withAnswer t (.error 0)).biReadFailed pos) := by
  change execBiReadFailed t s = _
  refine (live_takeAnswer hp h _ (fun _ => Ref.isBiRead) _ rfl nofun nofun).trans ?_
  rw [h.2]

theorem exec_recordWriteDone {retry : Bool} (h : s.awaits t (.recordWrite pos retry)) :
    exec (.recordWriteDone t) s = .next ((s.withAnswer t (.done [])).recordDone pos) := by
  change execRecordWriteDone t s = _
  refine (live_takeAnswer hp h _ (fun _ r => r.isRecordWrite false || r.isRecordWrite true) _
    (by cases retry <;> rfl) nofun nofun).trans ?_
  rw [h.2]

theorem exec_recordWriteFailed (landed : BitVec 96) (h : s.awaits t (.recordWrite pos false)) :
    exec (.recordWriteFailed t landed) s = .next ((s.withAnswer t (.error landed)).recordFailed pos) := by
  change execRecordWriteFailed t landed s = _
  refine (live_takeAnswer hp h _ (fun _ => Ref.isRecordWrite false) _ rfl nofun nofun).trans ?_
  rw [h.2]

theorem exec_recordRetryFailed (landed : BitVec 96) (h : s.awaits t (.recordWrite pos true)) :
    exec (.recordRetryFailed t landed) s = .next ((s.withAnswer t (.error landed)).retryFailed pos) := by
  change execRecordRetryFailed t landed s = _
  refine (live_takeAnswer hp h _ (fun _ => Ref.isRecordWrite true) _ rfl nofun nofun).trans ?_
  rw [h.2]

theorem exec_anchorReadAnswered {c : Copy} (a : MemAnswer) (h : s.awaits t (.anchorRead c)) :
    exec (.anchorReadAnswered t a) s = .next (if isErrorAnswer a then (s.withAnswer t a).anchorReadFailed
      else (s.withAnswer t a).anchorReadDone c (s.readData t (racedOf a))) := by
  change execAnchorReadAnswered t a s = _
  refine (live_takeAnswer hp h _ (fun _ => Ref.isAnchorRead) _ rfl nofun nofun).trans ?_
  rw [h.2]

theorem exec_scanReadAnswered (a : MemAnswer) (h : s.awaits t .scanRead) :
    exec (.scanReadAnswered t a) s = .next (if isErrorAnswer a then (s.withAnswer t a).scanFailed
      else (s.withAnswer t a).scanDone (s.readData t (racedOf a))) := by
  change execScanReadAnswered t a s = _
  exact live_takeAnswer hp h _ (fun _ r => decide (r = .scanRead)) _ rfl nofun nofun

/-! The rows that answer an anchor write, by what the anchor write in progress is for. -/

variable {c : Copy} {a : Anchor} {use : AnchorUse} (h : s.awaits t .anchorWrite)
  (hop : s.log.anchorOp = .writing c a use)
include h hop

/-- An answer that a row takes for the anchor write in progress. -/
theorem live_takeAnchorAnswer (ans : MemAnswer) (uses : List AnchorUse) (hu : uses.contains use = true)
    (act : State → State → MReq → State) :
    live s (fun s => s.takeAnswer t ans (s.wantsAnchor uses) (act s)) =
      .next (act s (s.withAnswer t ans) (s.tag t).req) :=
  live_takeAnswer hp h ans (fun s => s.wantsAnchor uses) act
    (by simp only [State.wantsAnchor, State.anchorUse, hop, hu, decide_true, Bool.and_self]) nofun nofun

theorem exec_anchorWriteDone (hu : use = .running) :
    exec (.anchorWriteDone t) s = .next ((s.withAnswer t (.done [])).anchorAnswered false) := by
  change execAnchorWriteDone t s = _
  exact live_takeAnchorAnswer hp h hop _ _ (by simp [hu]) _

theorem exec_anchorWriteFailed (landed : BitVec 96) (hu : use = .running ∨ use = .drain) :
    exec (.anchorWriteFailed t landed) s = .next ((s.withAnswer t (.error landed)).anchorAnswered true) := by
  change execAnchorWriteFailed t landed s = _
  exact live_takeAnchorAnswer hp h hop _ _ (by simpa using hu) _

theorem exec_drainDone (hu : use = .drain) :
    exec (.drainDone t) s = .next ((s.withAnswer t (.done [])).anchorAnswered false) := by
  change execDrainDone t s = _
  exact live_takeAnchorAnswer hp h hop _ _ (by simp [hu]) _

theorem exec_freshAnchorAnswered (ans : MemAnswer) (hu : use = .freshFirst ∨ use = .freshSecond) :
    exec (.freshAnchorAnswered t ans) s = .next ((s.withAnswer t ans).anchorAnswered (isErrorAnswer ans)) := by
  change execFreshAnchorAnswered t ans s = _
  exact live_takeAnchorAnswer hp h hop _ _ (by simpa using hu) _

theorem exec_recoveryDone (ans : MemAnswer) (hu : use = .recovery) :
    exec (.recoveryDone t ans) s = .next ((s.withAnswer t ans).anchorAnswered (isErrorAnswer ans)) := by
  change execRecoveryDone t ans s = _
  exact live_takeAnchorAnswer hp h hop _ _ (by simp [hu]) _

end

end Sys2Proof.Machine
end

section
/-! Layouts: what a field of a sequence of little-endian fields reads as, and the check word. -/

namespace Sys2Proof.Machine

/-! ### Little-endian fields (R168, R169) -/

@[simp] theorem leBytes_length (w n : Nat) : (leBytes w n).length = w := by
  induction w generalizing n with
  | zero => rfl
  | succ w ih => simp [leBytes, ih]

theorem leValue_leBytes (w n : Nat) : leValue (leBytes w n) = n % 256 ^ w := by
  induction w generalizing n with
  | zero => simp [leBytes, leValue, Nat.mod_one]
  | succ w ih => rw [leBytes, leValue, ih, pow_succ', Nat.mod_mul, BitVec.toNat_ofNat]

theorem field_leBytes (w n : Nat) : field (leBytes w n) 0 w = n % 256 ^ w := by
  rw [field, List.drop_zero, List.take_of_length_le (leBytes_length w n).le, leValue_leBytes]

/-- The first field of a layout. -/
theorem field_leBytes_append (w n : Nat) (ys : List Byte) : field (leBytes w n ++ ys) 0 w = n % 256 ^ w := by
  rw [field, List.drop_zero, List.take_left' (leBytes_length w n), leValue_leBytes]

/-- A field behind the first fields of a layout. -/
theorem field_append_of_le {xs ys : List Byte} {o w : Nat} (h : xs.length ≤ o) :
    field (xs ++ ys) o w = field ys (o - xs.length) w := by
  simp [field, List.drop_append, List.drop_eq_nil_of_le h]

theorem field_leBytes_append_of_le (k n : Nat) (ys : List Byte) {o w : Nat} (h : k ≤ o) :
    field (leBytes k n ++ ys) o w = field ys (o - k) w := by
  rw [field_append_of_le (by simpa using h), leBytes_length]

theorem field_byte (b : Byte) (ys : List Byte) : field (b :: ys) 0 1 = b.toNat := by simp [field, leValue]

theorem field_byte_of_pos (b : Byte) (ys : List Byte) {o w : Nat} (h : 0 < o) :
    field (b :: ys) o w = field ys (o - 1) w := by
  obtain ⟨n, rfl⟩ := Nat.exists_eq_add_of_lt h
  simp [field]

/-! ### Bytes of keys and flags -/

theorem Key.byte_toNat (k : Key) : k.byte.toNat = k.source.val * 16 + k.group.val := by
  have h1 := k.source.isLt
  have h2 := k.group.isLt
  simp [Key.byte, BitVec.toNat_ofNat]
  omega

theorem Key.ofByte_byte (k : Key) : Key.ofByte (k.source.val * 16 + k.group.val) = k := by
  have h1 := k.source.isLt
  have h2 := k.group.isLt
  obtain ⟨source, group⟩ := k
  simp only [Key.ofByte, Key.mk.injEq, Fin.ext_iff, Fin.val_ofNat] at *
  omega

theorem bool_toNat_lt (b : Bool) : (if b = true then 1 else 0) < 2 := by cases b <;> decide

theorem flagByte_two (a b : Bool) :
    (flagByte [a, b]).toNat = (if a = true then 1 else 0) + (if b = true then 2 else 0) := by
  cases a <;> cases b <;> decide

theorem flagByte_four (a b c d : Bool) : (flagByte [a, b, c, d]).toNat =
    (if a = true then 1 else 0) + (if b = true then 2 else 0) + (if c = true then 4 else 0) +
      (if d = true then 8 else 0) := by
  cases a <;> cases b <;> cases c <;> cases d <;> decide

/-! ### The check word (R8) -/

theorem crcBit_lt {c : Nat} (h : c < 2 ^ 32) : crcBit c < 2 ^ 32 := by
  have hs : c >>> 1 < 2 ^ 32 := lt_of_le_of_lt (Nat.shiftRight_le c 1) h
  unfold crcBit
  cases c.testBit 0
  · exact hs
  · exact Nat.xor_lt_two_pow hs (by decide)

theorem crcByte_lt {c : Nat} (b : Byte) (h : c < 2 ^ 32) : crcByte c b < 2 ^ 32 := by
  have hb : b.toNat < 2 ^ 32 := lt_trans b.isLt (by decide)
  exact crcBit_lt (crcBit_lt (crcBit_lt (crcBit_lt (crcBit_lt (crcBit_lt (crcBit_lt (crcBit_lt
    (Nat.xor_lt_two_pow h hb))))))))

/-- The check word fits its four bytes. -/
theorem crc32c_lt (bs : List Byte) : crc32c bs < 2 ^ 32 := by
  have h : ∀ c, c < 2 ^ 32 → bs.foldl crcByte c < 2 ^ 32 := by
    induction bs with
    | nil => exact fun _ h => h
    | cons b bs ih => exact fun c h => ih _ (crcByte_lt b h)
  exact Nat.xor_lt_two_pow (h _ (by decide)) (by decide)

end Sys2Proof.Machine
end

section
/-! The read-out commands: the layout of each reply, and that the row answers with it (R59, R158, sections 12.3 and
12.4). -/

namespace Sys2Proof.Machine

/-! ### Codes fit their bytes -/

theorem Bridge.code_lt (b : Bridge) : b.code < 256 := by cases b <;> decide
theorem SlotState.code_lt (st : SlotState) : st.code < 256 := by cases st <;> decide
theorem RegionClass.code_lt (c : RegionClass) : c.code < 256 := by cases c <;> decide
theorem Ungrouped.code_lt (u : Ungrouped) : u.code < 256 := by cases u <;> decide

theorem causeCode_lt (c : Option Cause) : (c.map Cause.code).getD 0 < 256 := by
  cases c with
  | none => decide
  | some c => cases c <;> decide

theorem waiterSource_lt (w : Option Waiter) : (w.map fun w => w.source.val).getD 0 < 256 := by
  cases w with
  | none => decide
  | some w => exact lt_trans w.source.isLt (by decide)

theorem waiterTag_lt (w : Option Waiter) : (w.map fun w => w.tag.val).getD 0 < 256 := by
  cases w with
  | none => decide
  | some w => exact lt_trans w.tag.isLt (by decide)

/-! ### The layouts of the replies -/

/-- The 44 bytes of GET_STATE (R158). -/
theorem stateBytes_layout (s : State) :
    s.stateBytes.length = 44 ∧ field s.stateBytes 0 1 = s.bridge.code ∧ field s.stateBytes 1 1 = s.link.lock.val ∧
    field s.stateBytes 2 1 = (if s.pfwAsserted then 1 else 0) + (if s.anchorClean then 2 else 0) ∧
    field s.stateBytes 3 1 = s.slotsInUse % 256 ∧ field s.stateBytes 4 2 = s.grp.claims.length % 65536 ∧
    field s.stateBytes 6 1 = s.host.holds.length % 256 ∧ field s.stateBytes 7 1 = s.grp.queue.length % 256 ∧
    field s.stateBytes 8 1 = s.notes.queue.length % 256 ∧ field s.stateBytes 9 3 = 0 ∧
    field s.stateBytes 12 4 = s.log.gen % 2 ^ 32 ∧ field s.stateBytes 16 8 = s.log.head % 2 ^ 64 ∧
    field s.stateBytes 24 8 = s.log.volatileTail % 2 ^ 64 ∧ field s.stateBytes 32 8 = s.log.persistedTail % 2 ^ 64 ∧
    field s.stateBytes 40 4 = s.freeSlots % 2 ^ 32 := by
  have hbridge := Nat.mod_eq_of_lt s.bridge.code_lt
  have hlock : s.link.lock.val % 256 = s.link.lock.val := Nat.mod_eq_of_lt (lt_trans s.link.lock.isLt (by decide))
  simp [State.stateBytes, field_leBytes_append, field_leBytes_append_of_le, field_byte, field_byte_of_pos, field_leBytes,
    flagByte_two, hbridge, hlock]

/-- The 20 bytes of GET_REGION (section 12.3). -/
theorem regionBytes_layout (r : Region) (n : Fin 8) :
    (r.bytes n.val).length = 20 ∧ field (r.bytes n.val) 0 1 = n.val ∧
    field (r.bytes n.val) 1 1 = (if r.valid then 1 else 0) ∧ field (r.bytes n.val) 2 8 = r.base % 2 ^ 64 ∧
    field (r.bytes n.val) 10 8 = r.size % 2 ^ 64 ∧ field (r.bytes n.val) 18 1 = r.cls.code ∧
    field (r.bytes n.val) 19 1 = r.policy.code := by
  have hn : n.val % 256 = n.val := Nat.mod_eq_of_lt (lt_trans n.isLt (by decide))
  have hvalid : (if r.valid = true then 1 else 0) % 256 = if r.valid = true then 1 else 0 :=
    Nat.mod_eq_of_lt (lt_trans (bool_toNat_lt _) (by decide))
  simp [Region.bytes, field_leBytes_append, field_leBytes_append_of_le, field_leBytes, hn, hvalid,
    Nat.mod_eq_of_lt r.cls.code_lt, Nat.mod_eq_of_lt r.policy.code_lt]

/-- The 14 bytes of GET_POLICY (section 12.3): the policy values and the notice mask. -/
theorem policyBytes_layout (p : Policy) (mask : BitVec 4) :
    let d := p.bytes ++ leBytes 1 mask.toNat
    d.length = 14 ∧ field d 0 1 = (if p.holdPolicy = .hold then 1 else 2) ∧ field d 1 2 = p.holdLimit % 65536 ∧
    field d 3 2 = p.idleLimit % 65536 ∧ field d 5 1 = (if p.idleAction = .commit then 1 else 2) ∧
    field d 6 4 = p.lowWater % 2 ^ 32 ∧ field d 10 1 = (if p.resumePolicy = .auto then 1 else 2) ∧
    field d 11 1 = p.resumeDelay % 256 ∧ field d 12 1 = (if p.polarity = .activeLow then 1 else 2) ∧
    field d 13 1 = mask.toNat := by
  have hmask : mask.toNat % 256 = mask.toNat := Nat.mod_eq_of_lt (lt_trans mask.isLt (by decide))
  obtain ⟨hp, hl, il, ia, lw, rp, rd, po⟩ := p
  refine ⟨by simp [Policy.bytes], ?_, ?_, ?_, ?_, ?_, ?_, ?_, ?_, ?_⟩
  case refine_1 => cases hp <;> simp [Policy.bytes, field_leBytes_append]
  case refine_4 =>
    cases ia <;> simp [Policy.bytes, field_leBytes_append, field_leBytes_append_of_le]
  case refine_6 => cases rp <;> simp [Policy.bytes, field_leBytes_append, field_leBytes_append_of_le]
  case refine_8 => cases po <;> simp [Policy.bytes, field_leBytes_append, field_leBytes_append_of_le]
  all_goals simp [Policy.bytes, field_leBytes_append, field_leBytes_append_of_le, field_leBytes, hmask]

/-- The 40 bytes of GET_GROUP (R59). -/
theorem groupBytes_layout (g : GroupSlot) (i : SlotNo) :
    (g.bytes i).length = 40 ∧ field (g.bytes i) 0 1 = i.val ∧ field (g.bytes i) 1 1 = g.state.code ∧
    field (g.bytes i) 2 1 = g.key.source.val * 16 + g.key.group.val ∧
    field (g.bytes i) 3 1 = (if g.damaged then 1 else 0) + (if g.waiter.isSome then 2 else 0) +
      (if g.idle.isSome then 4 else 0) + (if g.closing.isSome then 8 else 0) ∧
    field (g.bytes i) 4 1 = (g.cause.map Cause.code).getD 0 ∧
    field (g.bytes i) 5 1 = (g.waiter.map fun w => w.source.val).getD 0 ∧
    field (g.bytes i) 6 1 = (g.waiter.map fun w => w.tag.val).getD 0 ∧
    field (g.bytes i) 7 1 = g.inflight % 256 ∧ field (g.bytes i) 8 2 = g.claims % 65536 ∧
    field (g.bytes i) 10 2 = g.idle.getD 0 / 1000 % 65536 ∧ field (g.bytes i) 12 4 = g.records % 2 ^ 32 ∧
    field (g.bytes i) 16 8 = g.first % 2 ^ 64 ∧ field (g.bytes i) 24 8 = g.newest % 2 ^ 64 ∧
    field (g.bytes i) 32 8 = g.closing.getD 0 % 2 ^ 64 := by
  have hi : i.val % 256 = i.val := Nat.mod_eq_of_lt (lt_trans i.isLt (by decide))
  simp [GroupSlot.bytes, field_leBytes_append, field_leBytes_append_of_le, field_byte, field_byte_of_pos, field_leBytes,
    flagByte_four, Key.byte_toNat, hi, Nat.mod_eq_of_lt g.state.code_lt, Nat.mod_eq_of_lt (causeCode_lt g.cause),
    Nat.mod_eq_of_lt (waiterSource_lt g.waiter), Nat.mod_eq_of_lt (waiterTag_lt g.waiter)]

/-- The 28 bytes of GET_COUNTERS (section 12.4). -/
theorem counterBytes_layout (c : Counters) :
    c.bytes.length = 28 ∧ field c.bytes 0 4 = c.committed % 2 ^ 32 ∧ field c.bytes 4 4 = c.rolledBack % 2 ^ 32 ∧
    field c.bytes 8 4 = c.records % 2 ^ 32 ∧ field c.bytes 12 4 = c.loggedBytes % 2 ^ 32 ∧
    field c.bytes 16 4 = c.refusals % 2 ^ 32 ∧ field c.bytes 20 4 = c.holdTimeouts % 2 ^ 32 ∧
    field c.bytes 24 4 = c.memErrors % 2 ^ 32 := by
  simp [Counters.bytes, field_leBytes_append, field_leBytes_append_of_le, field_leBytes]

/-! ### The rows -/

theorem exec_getRegion {s : State} (h : s.linkReady) (n : Nat) : exec (.getRegion n) s =
    .next (if hn : n < 8 then s.answerLink .ok ((s.regions[n]).bytes n) else s.answerLink .range []) := by
  refine (live_takeCommand h _ _ _).trans ?_
  unfold State.cmdGetRegion
  split <;> rfl

theorem exec_getGroup {s : State} (h : s.linkReady) (n : Nat) : exec (.getGroup n) s =
    .next (if hn : n < 4 then s.answerLink .ok ((s.slot ⟨n, hn⟩).bytes ⟨n, hn⟩) else s.answerLink .range []) := by
  refine (live_takeCommand h _ _ _).trans ?_
  unfold State.cmdGetGroup
  split <;> rfl

/-- Settles O9: each reply is the layout of its table, laid out above, and nothing else changes. -/
theorem readOutReplies : Obligations.ReadOutReplies := by
  intro s h
  refine ⟨⟨_, live_takeCommand h _ _ _, stateBytes_layout s⟩, live_takeCommand h _ _ _, fun n => ?_, fun n hn => ?_,
    ⟨_, live_takeCommand h _ _ _, policyBytes_layout s.link.policy s.notes.mask⟩, fun i => ?_, fun n hn => ?_,
    ⟨_, live_takeCommand h _ _ _, counterBytes_layout s.notes.counters⟩⟩
  · exact ⟨_, by rw [exec_getRegion h, dif_pos n.isLt]; rfl, regionBytes_layout _ n⟩
  · rw [exec_getRegion h, dif_neg (by omega)]
  · exact ⟨_, by rw [exec_getGroup h, dif_pos i.isLt], groupBytes_layout _ i⟩
  · rw [exec_getGroup h, dif_neg (by omega)]

end Sys2Proof.Machine
end

section
/-! SET_LOG and SET_POLICY: their checks in the order of R152, and what a command that passes leaves (R154, R155). -/

namespace Sys2Proof.Machine

/-! ### SET_LOG -/

/-- Parameters of SET_LOG in range name their geometry, and no others name one (R1, R155). -/
theorem decodeGeometry_eq (b k : Nat) : decodeGeometry b k =
    if 7 ≤ k ∧ k ≤ 21 ∧ b % 4096 = 0 ∧ b + 128 + 32 * 2 ^ k ≤ 2 ^ 36 then some ⟨b, k⟩ else none := rfl

theorem rangesMeet_iff (b₁ e₁ b₂ e₂ : Nat) : rangesMeet b₁ e₁ b₂ e₂ = true ↔ b₁ < e₂ ∧ b₂ < e₁ := by
  simp [rangesMeet]

theorem regions_any_iff (s : State) (p : Region → Bool) :
    s.regions.toList.any p = true ↔ ∃ i : Fin 8, p s.regions[i] = true := by
  simp only [List.any_eq_true, List.mem_iff_getElem, Vector.length_toList]
  constructor
  · rintro ⟨_, ⟨i, hi, rfl⟩, hp⟩
    exact ⟨⟨i, hi⟩, by simpa using hp⟩
  · rintro ⟨i, hp⟩
    exact ⟨_, ⟨i.val, i.isLt, rfl⟩, by simpa using hp⟩

theorem geometryMeetsRegion_iff (s : State) (g : Geometry) : s.geometryMeetsRegion g = true ↔
    ∃ i : Fin 8, (s.regions[i]).valid = true ∧ (s.regions[i]).base < g.areaEnd ∧
      g.base < (s.regions[i]).base + (s.regions[i]).size := by
  simp only [State.geometryMeetsRegion, regions_any_iff, Bool.and_eq_true, rangesMeet_iff]

/-- What SET_LOG does, by its checks in their order. -/
theorem exec_setLog {s : State} (h : s.linkReady) (b k : Nat) : exec (.setLog b k) s = .next
    (if 7 ≤ k ∧ k ≤ 21 ∧ b % 4096 = 0 ∧ b + 128 + 32 * 2 ^ k ≤ 2 ^ 36 then
      if 1 ≤ s.link.lock.val then s.answerLink .locked []
      else if s.bridge ≠ .gated then s.answerLink .state []
      else if s.geometryMeetsRegion ⟨b, k⟩ = true then s.answerLink .overlap []
      else { s with log := { s.log with geometry := some ⟨b, k⟩ } }.answerLink .ok []
    else s.answerLink .range []) := by
  refine (live_takeCommand h _ _ _).trans ?_
  unfold State.cmdSetLog
  rw [decodeGeometry_eq]
  by_cases hr : 7 ≤ k ∧ k ≤ 21 ∧ b % 4096 = 0 ∧ b + 128 + 32 * 2 ^ k ≤ 2 ^ 36
  · simp only [if_pos hr, State.lockedAt, decide_eq_true_eq]; rfl
  · simp only [if_neg hr]; rfl

/-- Settles O10: each clause takes its branch of the checks. -/
theorem setLogAnswered : Obligations.SetLogAnswered := by
  intro s b k h
  dsimp only
  rw [exec_setLog h]
  have hmeets := geometryMeetsRegion_iff s ⟨b, k⟩
  refine ⟨fun hr => by rw [if_neg hr], fun hr hl => by rw [if_pos hr, if_pos hl], fun hr hl hb => ?_,
    fun hr hl hb ho => ?_, fun hr hl hb ho => ?_⟩
  all_goals rw [if_pos hr, if_neg (by omega)]
  · rw [if_pos hb]
  · rw [if_neg (not_not.2 hb), if_pos (hmeets.2 ho)]
  · rw [if_neg (not_not.2 hb), if_neg fun hm => ho (hmeets.1 hm)]

/-! ### SET_POLICY -/

/-- The range of SET_POLICY's parameters (R154). -/
abbrev PolicyInRange (p : PolicyParams) : Prop :=
  (p.holdPolicy = 1 ∨ p.holdPolicy = 2) ∧ 1 ≤ p.holdLimit ∧ p.holdLimit ≤ 65535 ∧ p.idleLimit ≤ 65535 ∧
    (p.idleAction = 1 ∨ p.idleAction = 2) ∧ p.lowWater ≤ 2097152 ∧ (p.resumePolicy = 1 ∨ p.resumePolicy = 2) ∧
    1 ≤ p.resumeDelay ∧ p.resumeDelay ≤ 255 ∧ (p.polarity = 1 ∨ p.polarity = 2)

/-- The policy values that SET_POLICY's parameters in range name (section 12.3). -/
abbrev policyNamed (p : PolicyParams) : Policy :=
  { holdPolicy := if p.holdPolicy = 1 then .hold else .refuse
    holdLimit := p.holdLimit
    idleLimit := p.idleLimit
    idleAction := if p.idleAction = 1 then .commit else .rollback
    lowWater := p.lowWater
    resumePolicy := if p.resumePolicy = 1 then .auto else .manual
    resumeDelay := p.resumeDelay
    polarity := if p.polarity = 1 then .activeLow else .activeHigh }

theorem policyDecode_eq (p : PolicyParams) : PolicyParams.decode p = if PolicyInRange p then some (policyNamed p) else none := rfl

/-- PFW is deasserted when the pin is at the level the polarity calls inactive (R122). -/
theorem pfwAsserted_eq_false_iff (s : State) :
    s.pfwAsserted = false ↔ s.pfwHigh = decide (s.link.policy.polarity = .activeLow) := by
  unfold State.pfwAsserted
  cases s.link.policy.polarity <;> simp

/-- A change of resume policy sets the resume-delay timer and nothing else (R130, log 39). -/
theorem resumeChange_eq (s : State) (old : ResumePolicy) : s.resumeChange old = { s with
    resumeAt := if s.link.policy.resumePolicy = old then s.resumeAt
      else if s.link.policy.resumePolicy = .manual then none
      else if s.bridge = .halted ∧ s.pfwHigh = decide (s.link.policy.polarity = .activeLow)
        then some (s.now + s.link.policy.resumeDelay * 1000)
      else s.resumeAt } := by
  unfold State.resumeChange
  simp only [pfwAsserted_eq_false_iff]
  split_ifs <;> rfl

theorem freeSlots_eq (s : State) : s.freeSlots =
    if s.log.newest = none then 0 else s.ringSlots - (s.log.head - s.log.persistedTail) := by
  unfold State.freeSlots
  cases s.log.newest <;> simp

/-- The comparison just after LOG_LOW is armed (R24). -/
theorem lowCompare_armed {s : State} (h : s.log.lowArmed = true) : s.lowCompare = { s with
    log := { s.log with lowArmed := decide (s.link.policy.lowWater ≤ s.freeSlots) }
    notes := if s.freeSlots < s.link.policy.lowWater
      then (s.post .logLow Key.zero .none s.freeSlots s.log.head).notes else s.notes } := by
  rw [lowCompare_eq]
  simp only [h, and_true, not_lt, apply_ite State.notes]

/-- The state after a SET_POLICY with these values has passed its checks: the values are replaced, the resume-delay timer
follows a change of resume policy, LOG_LOW is armed and compared, and the command is answered OK (R24, R130, R154). -/
def State.withPolicy (s : State) (q : Policy) : State :=
  { s with
    link := { s.link with policy := q, state := .idle, buffer := .answer .ok [] }
    log := { s.log with lowArmed := decide (q.lowWater ≤ s.freeSlots) }
    notes := if s.freeSlots < q.lowWater then (s.post .logLow Key.zero .none s.freeSlots s.log.head).notes else s.notes
    resumeAt :=
      if q.resumePolicy = s.link.policy.resumePolicy then s.resumeAt
      else if q.resumePolicy = .manual then none
      else if s.bridge = .halted ∧ s.pfwHigh = decide (q.polarity = .activeLow)
        then some (s.now + q.resumeDelay * 1000)
      else s.resumeAt }

/-- What SET_POLICY does, by its checks in their order. -/
theorem exec_setPolicy {s : State} (h : s.linkReady) (p : PolicyParams) : exec (.setPolicy p) s = .next
    (if PolicyInRange p then
      if 3 ≤ s.link.lock.val then s.answerLink .locked []
      else if (policyNamed p).polarity ≠ s.link.policy.polarity ∧ s.bridge ≠ .gated then s.answerLink .state []
      else s.withPolicy (policyNamed p)
    else s.answerLink .range []) := by
  refine (live_takeCommand h _ _ _).trans ?_
  unfold State.cmdSetPolicy
  rw [policyDecode_eq]
  by_cases hr : PolicyInRange p
  · simp only [if_pos hr, State.lockedAt, decide_eq_true_eq]
    rw [resumeChange_eq, lowCompare_armed rfl]
    rfl
  · simp only [if_neg hr]; rfl

/-- Settles O12: each clause takes its branch of the checks. -/
theorem setPolicyAnswered : Obligations.SetPolicyAnswered := by
  intro s p h
  dsimp only
  rw [exec_setPolicy h]
  refine ⟨fun hr => by rw [if_neg hr], fun hr hl => by rw [if_pos hr, if_pos hl.ge], fun hr hl hq hb => ?_,
    fun hr hl hq => ?_⟩
  all_goals rw [if_pos hr, if_neg (by omega)]
  · rw [if_pos ⟨hq, hb⟩]
  · rw [if_neg (by rintro ⟨h1, h2⟩; exact hq.elim h1 h2), ← freeSlots_eq, apply_ite State.notes]
    rfl

end Sys2Proof.Machine
end

section
/-! The needs-log decision (R53): the span from the lowest to the highest new byte. -/

namespace Sys2Proof.Machine

/-- A byte of a line is new when the mask selects it and the logged mask does not (R53). -/
abbrev IsNewByte (mask logged : BitVec 64) (b : Nat) : Prop := mask.getLsbD b = true ∧ logged.getLsbD b = false

theorem getLsbD_new_iff (mask logged : BitVec 64) (b : Nat) :
    (mask &&& ~~~logged).getLsbD b = true ↔ IsNewByte mask logged b := by
  simp only [BitVec.getLsbD_and, BitVec.getLsbD_not, Bool.and_eq_true, decide_eq_true_eq, Bool.not_eq_true']
  exact ⟨fun ⟨hm, _, hl⟩ => ⟨hm, hl⟩, fun ⟨hm, hl⟩ => ⟨hm, BitVec.lt_of_getLsbD hm, hl⟩⟩

theorem find?_reverse_range {p : Nat → Bool} {n hi : Nat} (hlt : hi < n) (hp : p hi = true)
    (hmax : ∀ b, p b = true → b ≤ hi) : (List.range n).reverse.find? p = some hi := by
  induction n with
  | zero => omega
  | succ n ih =>
    rw [List.range_succ, List.reverse_append, List.reverse_singleton, List.singleton_append, List.find?_cons]
    by_cases hn : hi = n
    · subst hn; rw [hp]
    · have : p n = false := by
        by_contra h
        have := hmax n (by simpa using h)
        omega
      rw [this]
      exact ih (by omega)

/-- The lowest set bit is the one that no set bit lies below. -/
theorem lowestBit_eq_some {m : BitVec 64} {lo : Nat} (h : m.getLsbD lo = true) (hmin : ∀ b, m.getLsbD b = true → lo ≤ b) :
    lowestBit m = some lo := by
  refine List.find?_range_eq_some.2 ⟨h, by simpa using BitVec.lt_of_getLsbD h, fun j hj => ?_⟩
  by_contra hb
  have := hmin j (by simpa using hb)
  omega

/-- The highest set bit is the one that no set bit lies above. -/
theorem highestBit_eq_some {m : BitVec 64} {hi : Nat} (h : m.getLsbD hi = true) (hmax : ∀ b, m.getLsbD b = true → b ≤ hi) :
    highestBit m = some hi :=
  find?_reverse_range (BitVec.lt_of_getLsbD h) h hmax

theorem neededSpan_of_none {mask logged : BitVec 64} (h : ∀ b, ¬ IsNewByte mask logged b) :
    neededSpan mask logged = none := by
  have hlow : lowestBit (mask &&& ~~~logged) = none :=
    List.find?_eq_none.2 fun b _ => by rw [getLsbD_new_iff]; exact h b
  simp only [neededSpan, hlow]

theorem neededSpan_of_bounds {mask logged : BitVec 64} {lo hi : Nat} (hlo : IsNewByte mask logged lo)
    (hhi : IsNewByte mask logged hi) (hb : ∀ b, IsNewByte mask logged b → lo ≤ b ∧ b ≤ hi) :
    neededSpan mask logged = some (lo, hi - lo + 1) := by
  have hlow : lowestBit (mask &&& ~~~logged) = some lo :=
    lowestBit_eq_some ((getLsbD_new_iff _ _ _).2 hlo) fun b h => (hb b ((getLsbD_new_iff _ _ _).1 h)).1
  have hhigh : highestBit (mask &&& ~~~logged) = some hi :=
    highestBit_eq_some ((getLsbD_new_iff _ _ _).2 hhi) fun b h => (hb b ((getLsbD_new_iff _ _ _).1 h)).2
  simp only [neededSpan, hlow, hhigh]

/-- Where a byte is new there are a lowest and a highest one. -/
theorem exists_newByte_bounds {mask logged : BitVec 64} (h : ∃ b, IsNewByte mask logged b) :
    ∃ lo hi, IsNewByte mask logged lo ∧ IsNewByte mask logged hi ∧ ∀ b, IsNewByte mask logged b → lo ≤ b ∧ b ≤ hi := by
  obtain ⟨b, hb⟩ := h
  have hle : ∀ x, IsNewByte mask logged x → x ≤ 64 := fun x hx => (BitVec.lt_of_getLsbD hx.1).le
  refine ⟨Nat.find ⟨b, hb⟩, Nat.findGreatest (IsNewByte mask logged) 64, Nat.find_spec ⟨b, hb⟩,
    Nat.findGreatest_spec (hle b hb) hb, fun x hx => ⟨Nat.find_min' _ hx, Nat.le_findGreatest (hle x hx) hx⟩⟩

/-- Settles O23. -/
theorem neededSpan_spec : Obligations.NeededSpan := by
  intro mask logged
  dsimp only
  refine ⟨neededSpan_of_none, fun lo hi hlo hhi hb => ?_, exists_newByte_bounds⟩
  have hlt := BitVec.lt_of_getLsbD hhi.1
  have hle := (hb lo hlo).2
  refine ⟨neededSpan_of_bounds hlo hhi hb, by omega, by omega, fun h => ?_, fun h => ?_⟩
  · rw [beforeSlots, if_pos h]
  · rw [beforeSlots, if_neg (by omega)]

end Sys2Proof.Machine
end

section
/-! The decision on a journaled write at the front of the intake: the checks of R60 in their order, as an outcome each. -/

namespace Sys2Proof.Machine

/-! ### The front of the intake -/

/-- A hold that falls due at the front of the intake (R78, R79). -/
theorem settleFront_hold {s : State} {r : Request} {q : Intake} {rest : List Intake} (h : s.host.intake = q :: rest)
    (why : HoldReason) : s.settleFront r (.hold why) = s.heldFront r rest why := by
  change s.takeFront.placeHold r why = _
  simp only [State.placeHold, State.heldFront, State.takeFront, State.setHolds, h, List.tail_cons,
    Config.holdDepth]
  by_cases hl : s.host.holds.length < 8
  · simp only [if_pos hl]
  · simp only [if_neg hl]; rfl

theorem settleFront_refused {s : State} {r : Request} {q : Intake} {rest : List Intake} (h : s.host.intake = q :: rest)
    (why : Reason) : s.settleFront r (.refuse why) = s.refusedFront r rest why :=
  takeFront_refuse_eq s r why q rest h

/-- A hold that follows the hold policy (R78). -/
theorem settleFront_holdOr {s : State} {r : Request} {q : Intake} {rest : List Intake} (h : s.host.intake = q :: rest)
    (why : HoldReason) (code : Reason) : s.settleFront r (s.holdOr why code) = s.turnedBack r rest why code := by
  unfold State.holdOr State.turnedBack
  cases s.link.policy.holdPolicy
  · exact settleFront_hold h why
  · exact settleFront_refused h code

/-- The row that takes a WRITE decides the sound one at the front from step 2 of R60 on. -/
theorem exec_admitWrite {s : State} {src : Source} {tag : ReqTag} {line : BitVec 30} {mask : BitVec 64} {data : List Byte}
    {g : GroupNo} {rest : List Intake} (h : s.front ⟨src, tag, .write line mask data g⟩ rest) (hm : mask ≠ 0) :
    exec .admitWrite s = .next (s.settleFront ⟨src, tag, .write line mask data g⟩
      (s.writeVerdict s.host.holds src line.toNat mask g)) := by
  obtain ⟨⟨hpower, hmarked, hpause⟩, hin⟩ := h
  change execAdmitWrite s = _
  delta execAdmitWrite
  rw [live_of_power hpower]
  have hm : ¬ mask = 0#64 := hm
  simp [State.takeNext, hin, ReqKind.isWrite, hmarked, hpause, State.decideFront, malformed, hm]

/-- In RUNNING a WRITE of a group to a JOURNALED region is decided by its group (R60). -/
theorem writeVerdict_journaled {s : State} {older : List Hold} {src : Source} {line : Nat} {mask : BitVec 64} {g : GroupNo}
    {u : Ungrouped} (hb : s.bridge = .running) (hc : s.classify (lineAddr line) = .journaled u) (hg : g ≠ 0) :
    s.writeVerdict older src line mask g = s.groupVerdict older ⟨src, g⟩ line mask := by
  simp [State.writeVerdict, hb, hc, hg]

/-! ### The same-source line order (R39, R84) -/

theorem orderedOr_of_latest {holds : List Hold} {src : Source} {line : Nat} {h : Hold} (hl : IsLatestOn holds src line h)
    (v : Verdict) : orderedOr holds src line v = .hold (.order h.req.source h.req.tag) := by
  obtain ⟨older, younger, rfl, hon, hnone⟩ := hl
  have hfind : orderWait (older ++ h :: younger) src line = some h := by
    simp only [orderWait, List.reverse_append, List.reverse_cons, List.append_assoc, List.find?_append]
    rw [List.find?_eq_none.2 fun g hg => by
      simpa [Hold.isOn] using hnone g (List.mem_reverse.1 hg)]
    simp [hon.1, hon.2]
  simp only [orderedOr, hfind]

theorem orderedOr_of_none {holds : List Hold} {src : Source} {line : Nat} (h : ∀ x ∈ holds, ¬ x.isOn src line)
    (v : Verdict) : orderedOr holds src line v = v := by
  have hfind : orderWait holds src line = none :=
    List.find?_eq_none.2 fun g hg => by simpa [Hold.isOn] using h g (List.mem_reverse.1 hg)
  simp only [orderedOr, hfind]

/-! ### The group's answer and the line's (R44, R51) -/

theorem groupLookup_closing {s : State} {k : Key} {i : SlotNo} (h : s.findSlot k = some i)
    (ho : (s.slot i).state ≠ .opened) : s.groupLookup k = .closing := by
  delta State.groupLookup
  rw [h]
  exact if_neg ho

theorem groupLookup_open {s : State} {k : Key} {i : SlotNo} (h : s.findSlot k = some i)
    (ho : (s.slot i).state = .opened) :
    s.groupLookup k = if (s.slot i).damaged = true then .damaged else .join i := by
  delta State.groupLookup
  rw [h]
  exact if_pos ho

theorem groupLookup_opens {s : State} {k : Key} {i : SlotNo} (h : s.findSlot k = none) (hf : s.freeSlot = some i) :
    s.groupLookup k = .opens i := by
  delta State.groupLookup
  rw [h, hf]

theorem groupLookup_full {s : State} {k : Key} (h : s.findSlot k = none) (hf : s.freeSlot = none) :
    s.groupLookup k = .full := by
  delta State.groupLookup
  rw [h, hf]

/-- The slot a group has or would open meets the ORDER check, then its line's verdict (R60). -/
theorem groupVerdict_slot {s : State} {older : List Hold} {k : Key} {line : Nat} {mask : BitVec 64} {i : SlotNo}
    {opens : Bool} (h : if opens then s.findSlot k = none ∧ s.freeSlot = some i
      else s.findSlot k = some i ∧ (s.slot i).state = .opened ∧ (s.slot i).damaged = false) :
    s.groupVerdict older k line mask = orderedOr older k.source line (s.lineVerdict line mask i opens) := by
  cases opens
  · obtain ⟨hf, ho, hd⟩ := h
    simp [State.groupVerdict, groupLookup_open hf ho, hd]
  · obtain ⟨hf, hfree⟩ := h
    simp [State.groupVerdict, groupLookup_opens hf hfree]

/-- A key whose slot, if it has one, is OPEN and sound has that slot, or would open the lowest FREE one (R44). -/
theorem slot_of_lookup {s : State} {k : Key} {i : SlotNo}
    (h : s.findSlot k = none ∨ ∃ j, s.findSlot k = some j ∧ (s.slot j).state = .opened ∧ (s.slot j).damaged = false)
    (hi : s.findSlot k = some i ∨ (s.findSlot k = none ∧ s.freeSlot = some i)) :
    ∃ opens : Bool, (if opens then s.findSlot k = none ∧ s.freeSlot = some i
      else s.findSlot k = some i ∧ (s.slot i).state = .opened ∧ (s.slot i).damaged = false) ∧
      (s.findSlot k = none → opens = true) := by
  rcases hi with hf | hf
  · refine ⟨false, ?_, fun hn => by simp [hf] at hn⟩
    rcases h with hn | ⟨j, hj, ho, hd⟩
    · simp [hf] at hn
    · obtain rfl : i = j := Option.some.inj (hf.symm.trans hj)
      exact ⟨hf, ho, hd⟩
  · exact ⟨true, hf, fun _ => rfl⟩

/-- A line of another group, or any claimed line for a new group, conflicts (R51). -/
theorem lineVerdict_conflict {s : State} {line : Nat} {mask : BitVec 64} {i : SlotNo} {opens : Bool} {c : Claim}
    (h : s.claimOf line = some c) (ho : opens = true ∨ c.owner ≠ i) :
    s.lineVerdict line mask i opens = s.holdOr (.line line) .conflict := by
  have hne : ¬ (if opens then none else some i) = some c.owner := by
    rcases ho with rfl | hne
    · simp
    · cases opens <;> simp [Ne.symm hne]
  delta State.lineVerdict State.lineLookup
  simp only [h, if_neg hne]

/-- An unclaimed line finds no entry in a full claim table (R50, R51). -/
theorem lineVerdict_full {s : State} {line : Nat} {mask : BitVec 64} {i : SlotNo} {opens : Bool}
    (h : s.claimOf line = none) (hl : 256 ≤ s.grp.claims.length) :
    s.lineVerdict line mask i opens = s.holdOr .claimSpace .claimTableFull := by
  have hne : ¬ s.grp.claims.length < Config.claimDepth := not_lt.2 hl
  delta State.lineVerdict State.lineLookup
  simp only [h, if_neg hne]

/-- A line that is the group's, or unclaimed with room, leaves the reserve to decide (R60, step 7). -/
theorem lineVerdict_reserve {s : State} {line : Nat} {mask : BitVec 64} {i : SlotNo} {opens claims : Bool}
    {logged : BitVec 64}
    (h : if claims then s.claimOf line = none ∧ s.grp.claims.length < 256 ∧ logged = 0
      else opens = false ∧ ∃ c, s.claimOf line = some c ∧ c.owner = i ∧ c.mask = logged) :
    s.lineVerdict line mask i opens = if s.reserveHolds (neededSpan mask logged) = true
      then .journal ⟨i, opens, claims, neededSpan mask logged⟩ else s.holdOr .logSpace .logFull := by
  cases claims
  · obtain ⟨rfl, c, hc, rfl, rfl⟩ := h
    delta State.lineVerdict State.lineLookup
    simp [hc]
  · obtain ⟨hc, hl, rfl⟩ := h
    have hl' : s.grp.claims.length < Config.claimDepth := hl
    delta State.lineVerdict State.lineLookup
    simp [hc, hl']

theorem reserveHolds_some_iff (s : State) (first count : Nat) : s.reserveHolds (some (first, count)) = true ↔
    padSlots s.geo s.log.head (beforeSlots count) + beforeSlots count + 4 ≤ s.freeSlots :=
  decide_eq_true_iff

/-- A write that meets steps 3 to 6 of R60 is left to the reserve. -/
theorem writeVerdict_of_mayJournal {s : State} {k : Key} {line : Nat} {mask : BitVec 64} {i : SlotNo} {opens claims : Bool}
    {logged : BitVec 64} (h : s.mayJournal k line i opens claims logged) :
    s.writeVerdict s.host.holds k.source line mask k.group = if s.reserveHolds (neededSpan mask logged) = true
      then .journal ⟨i, opens, claims, neededSpan mask logged⟩ else s.holdOr .logSpace .logFull := by
  obtain ⟨hb, ⟨u, hc⟩, hg, hnone, hslot, hline⟩ := h
  rw [writeVerdict_journaled hb hc hg, groupVerdict_slot hslot, orderedOr_of_none hnone, lineVerdict_reserve hline]

/-- Settles O22: each check, in its order, takes its branch of the decision. -/
theorem journaledWriteTurnedBack : Obligations.JournaledWriteTurnedBack := by
  intro s src tag line mask data g rest u
  dsimp only
  intro hfront hmask hb hc hg
  have hin := hfront.2
  rw [exec_admitWrite hfront hmask]
  have hv : s.writeVerdict s.host.holds src line.toNat mask g = s.groupVerdict s.host.holds ⟨src, g⟩ line.toNat mask :=
    writeVerdict_journaled hb hc hg
  refine ⟨fun i hf ho => ?_, fun i hf ho hd => ?_, fun hgroup => ⟨fun h hl => ?_, fun hnone => ⟨fun hf hfree => ?_,
    fun i hi => ⟨fun c hclaim hother => ?_, fun hclaim hfull => ?_⟩⟩⟩, fun i opens claims logged first count hj hs hl => ?_⟩
  · rw [hv, State.groupVerdict, groupLookup_closing hf ho]
    exact congrArg _ (settleFront_refused hin _)
  · rw [hv, State.groupVerdict, groupLookup_open hf ho, if_pos hd]
    exact congrArg _ (settleFront_refused hin _)
  · have horder : s.groupVerdict s.host.holds ⟨src, g⟩ line.toNat mask = .hold (.order h.req.source h.req.tag) := by
      rcases hgroup with hf | ⟨i, hf, ho, hd⟩
      · cases hfree : s.freeSlot with
        | none => simp only [State.groupVerdict, groupLookup_full hf hfree, orderedOr_of_latest hl]
        | some i => rw [groupVerdict_slot (opens := true) ⟨hf, hfree⟩, orderedOr_of_latest hl]
      · rw [groupVerdict_slot (opens := false) ⟨hf, ho, hd⟩, orderedOr_of_latest hl]
    rw [hv, horder, settleFront_hold hin]
  · have hfull : s.groupVerdict s.host.holds ⟨src, g⟩ line.toNat mask = s.holdOr .groupSlot .groupTableFull := by
      simp only [State.groupVerdict, groupLookup_full hf hfree, orderedOr_of_none hnone]
    rw [hv, hfull, settleFront_holdOr hin]
  · obtain ⟨opens, hslot, hnew⟩ := slot_of_lookup hgroup hi
    rw [hv, groupVerdict_slot hslot, orderedOr_of_none hnone, lineVerdict_conflict hclaim (hother.imp_left hnew),
      settleFront_holdOr hin]
  · obtain ⟨opens, hslot, -⟩ := slot_of_lookup hgroup hi
    rw [hv, groupVerdict_slot hslot, orderedOr_of_none hnone, lineVerdict_full hclaim hfull, settleFront_holdOr hin]
  · have hr : ¬ s.reserveHolds (neededSpan mask logged) = true := by rw [hs, reserveHolds_some_iff]; omega
    have := writeVerdict_of_mayJournal (mask := mask) hj
    dsimp only at this
    rw [this, if_neg hr, settleFront_holdOr hin]

end Sys2Proof.Machine
end

section
/-! Allocation: what it does to the log engine and the notices (R9 to R13, R24), and the closing record that became due
first (R96). -/

namespace Sys2Proof.Machine

/-! ### Allocation and the LOG_LOW comparison -/

/-- Free slots as they stand with the head at a position (R3). -/
def State.freeAt (s : State) (head : Nat) : Nat := ({ s with log := { s.log with head := head } } : State).freeSlots

/-- An allocated record joins the window, the head moves past it, and the comparison with the free slots left sets the
flag of LOG_LOW, which is posted where it was armed and they are below the low-water value (R9, R24). -/
theorem allocate_eq (s : State) (h : Header) : s.allocate h = { s with
    log := { s.log with
      window := s.log.window ++ [h]
      head := s.log.head + h.slots
      lowArmed := decide (s.link.policy.lowWater ≤ s.freeAt (s.log.head + h.slots)) }
    notes := if s.freeAt (s.log.head + h.slots) < s.link.policy.lowWater ∧ s.log.lowArmed = true
      then (s.post .logLow Key.zero .none (s.freeAt (s.log.head + h.slots)) (s.log.head + h.slots)).notes
      else s.notes } := by
  rw [State.allocate, lowCompare_eq]
  simp only [not_lt, apply_ite State.notes]
  rfl

/-- The slot that a group side with one slot replaced has at its place, and at the others. -/
theorem slot_of_set_self {t : State} {slots : Vector GroupSlot 4} {i : SlotNo} {g : GroupSlot}
    (h : t.grp.slots = slots.set i g) : t.slot i = g := by
  unfold State.slot
  rw [h]
  exact Vector.getElem_set_self i.isLt

theorem slot_of_set_ne {s t : State} {i j : SlotNo} {g : GroupSlot} (h : t.grp.slots = s.grp.slots.set i g)
    (hj : j ≠ i) : t.slot j = s.slot j := by
  unfold State.slot
  rw [h]
  exact Vector.getElem_set_ne i.isLt j.isLt fun e => hj (Fin.ext e.symm)

@[simp] theorem Header.body_length (h : Header) : h.body.length = 28 := by
  simp [Header.body]

@[simp] theorem Header.bytes_length (h : Header) : h.bytes.length = 32 := by
  simp [Header.bytes]

/-! ### Closing records -/

theorem closesRecords_iff (s : State) : s.closesRecords = true ↔
    s.bridge = .running ∨ s.bridge = .draining ∨ (s.bridge = .recovering ∧ s.stopping = false) := by
  unfold State.closesRecords
  cases s.bridge <;> simp

/-- Where no closing record may be allocated the row changes nothing (R12, R96, log 4). -/
theorem allocateDue_of_not {s : State} (h : s.log.due = [] ∨ ¬ s.closesRecords = true ∨ 8 ≤ s.log.window.length) :
    s.allocateDue = s := by
  unfold State.allocateDue
  split
  · rfl
  · rename_i c rest hd
    refine if_neg ?_
    rintro ⟨hc, hw⟩
    rcases h with h | h | h
    · simp [hd] at h
    · exact h hc
    · exact absurd hw (not_lt.2 h)

theorem allocateDue_of_due {s : State} {c : DueClose} {rest : List DueClose} (hd : s.log.due = c :: rest)
    (hc : s.closesRecords = true) (hw : s.log.window.length < 8) :
    s.allocateDue = ({ s with log := { s.log with due := rest } } : State).allocateClosing c := by
  have hcond : s.closesRecords = true ∧ s.log.window.length < Config.windowDepth := ⟨hc, hw⟩
  simp only [State.allocateDue, hd, if_pos hcond]

/-- The closing record of R6: its kind and outcome by what closes the group, its back distance to the group's first
record. -/
theorem closingHeader_eq (s : State) (i : SlotNo) (what : Closing) : s.closingHeader i what =
    ⟨if what = .commit then .commit else .rollback, 1, (s.slot i).key, decide (what = .unrestored), s.log.head, s.log.gen,
      s.log.head - (s.slot i).first, 0, 0, 0, min (s.slot i).records 65535⟩ := by
  cases what <;> rfl

/-- A closing record is allocated: it takes the ring slot at the head, its position is noted in the slot, and its write is
handed over (R9, R13, R96). -/
theorem allocateClosing_eq (s : State) (c : DueClose) : s.allocateClosing c = { s with
    log := { s.log with
      window := s.log.window ++ [s.closingHeader c.slot c.what]
      head := s.log.head + 1
      lowArmed := decide (s.link.policy.lowWater ≤ s.freeAt (s.log.head + 1)) }
    grp := { s.grp with slots := s.grp.slots.set c.slot { s.slot c.slot with closing := some s.log.head } }
    mport := { s.mport with logQ := s.mport.logQ ++
      [⟨.recordWrite s.log.head false, true, s.geo.slotAddr s.log.head, 32, spanMask 96 0 32,
        (s.closingHeader c.slot c.what).bytes⟩] }
    notes := if s.freeAt (s.log.head + 1) < s.link.policy.lowWater ∧ s.log.lowArmed = true
      then (s.post .logLow Key.zero .none (s.freeAt (s.log.head + 1)) (s.log.head + 1)).notes else s.notes } := by
  have hlen := Header.bytes_length (s.closingHeader c.slot c.what)
  simp only [State.allocateClosing, allocate_eq, State.writeRecord, hlen]
  rfl

/-- Settles O34: the record at the head of the due list is allocated, noted in its slot and handed over. -/
theorem closingRecordAllocated : Obligations.ClosingRecordAllocated := by
  intro s hpower
  dsimp only
  rw [← closesRecords_iff]
  have hrun : exec .closingRecordAllocate s = .next s.allocateDue := live_of_power hpower _
  refine ⟨fun h => ?_, fun c rest hd hc hw => ?_⟩
  · rw [hrun, allocateDue_of_not h]
  · rw [hrun, allocateDue_of_due hd hc hw, ← closingHeader_eq, allocateClosing_eq]
    refine ⟨_, rfl, rfl, ?_, fun j hj => ?_, rfl, rfl, ?_, rfl⟩
    · exact slot_of_set_self rfl
    · exact slot_of_set_ne (s := s) rfl hj
    · rw [apply_ite State.notes]; rfl

end Sys2Proof.Machine
end

section
/-! The journaled write with a record enters the part in one step (R63): its group, its claim, its PAD and BEFORE, its
before-image read, and the clean barrier. -/

namespace Sys2Proof.Machine

/-! ### The parts of the step -/

/-- The slot of a group that a write opens or joins (R45 to R47), its claim counted (R51). -/
def State.joinedSlot (s : State) (k : Key) (p : Plan) : GroupSlot :=
  let claimed := if p.claims = true then 1 else 0
  if p.opens = true then
    { GroupSlot.free with state := .opened, key := k, inflight := 1, idle := s.idleStart, claims := claimed }
  else { s.slot p.slot with
    inflight := (s.slot p.slot).inflight + 1
    idle := s.idleStart
    claims := (s.slot p.slot).claims + claimed }

/-- A write's group is opened or joined and its claim made. -/
theorem makeClaim_joinGroup (s : State) (k : Key) (line : Nat) (p : Plan) : (s.joinGroup k p).makeClaim line p = { s with
    grp := { s.grp with
      slots := s.grp.slots.set p.slot (s.joinedSlot k p)
      claims := s.grp.claims ++ if p.claims = true then [⟨line, p.slot, 0⟩] else [] } } := by
  obtain ⟨i, opens, claims, span⟩ := p
  cases claims
  · have hc : ∀ g : GroupSlot, ({ g with claims := g.claims + 0 } : GroupSlot) = g := fun _ => rfl
    cases opens <;> simp [State.makeClaim, State.joinGroup, State.updSlot, State.joinedSlot, State.slot, GroupSlot.free]
  · cases opens <;>
      simp [State.makeClaim, State.joinGroup, State.updSlot, State.joinedSlot, State.slot, GroupSlot.free,
        Vector.set_set]

/-- The write of a PAD as it is handed over. -/
def State.padWrite (s : State) (n : Nat) : MReq :=
  ⟨.recordWrite s.log.head false, true, s.geo.slotAddr s.log.head, 32, spanMask 96 0 32, (s.padHeader n).bytes⟩

/-- A PAD of `n` ring slots is allocated and handed over; of 0, nothing happens (R10, R13). -/
theorem allocatePad_eq (s : State) (n : Nat) : s.allocatePad n = { s with
    log := { s.log with
      window := s.log.window ++ if n = 0 then [] else [s.padHeader n]
      head := s.log.head + n
      lowArmed := if n = 0 then s.log.lowArmed else decide (s.link.policy.lowWater ≤ s.freeAt (s.log.head + n)) }
    mport := { s.mport with logQ := s.mport.logQ ++ if n = 0 then [] else [s.padWrite n] }
    notes := if n ≠ 0 ∧ s.freeAt (s.log.head + n) < s.link.policy.lowWater ∧ s.log.lowArmed = true
      then (s.post .logLow Key.zero .none (s.freeAt (s.log.head + n)) (s.log.head + n)).notes else s.notes } := by
  by_cases hn : n = 0
  · simp [State.allocatePad, hn]
  · have hlen := Header.bytes_length (s.padHeader n)
    simp only [State.allocatePad, allocate_eq, State.writeRecord, hlen, ne_eq, hn, not_false_eq_true, true_and]
    rfl

/-- A BEFORE is allocated for the group of a slot and the group table told (R5, R9). -/
theorem allocateBefore_eq {s : State} {i : SlotNo} {g : GroupSlot} (h : s.slot i = g) (line first count : Nat) :
    s.allocateBefore i line first count = { s with
    log := { s.log with
      window := s.log.window ++ [⟨.before, beforeSlots count, g.key, false, s.log.head, s.log.gen,
        if g.records = 0 then 0 else s.log.head - g.newest, line, first, count, 0⟩]
      head := s.log.head + beforeSlots count
      lowArmed := decide (s.link.policy.lowWater ≤ s.freeAt (s.log.head + beforeSlots count)) }
    grp := { s.grp with slots := s.grp.slots.set i { g with
      newest := s.log.head
      first := if g.records = 0 then s.log.head else g.first
      records := g.records + 1 } }
    notes := if s.freeAt (s.log.head + beforeSlots count) < s.link.policy.lowWater ∧ s.log.lowArmed = true
      then (s.post .logLow Key.zero .none (s.freeAt (s.log.head + beforeSlots count))
        (s.log.head + beforeSlots count)).notes
      else s.notes } := by
  subst h
  simp only [State.allocateBefore, allocate_eq]
  rfl

/-- The clean barrier of a BEFORE allocation in RUNNING: under a CLEAN newest anchor, with no anchor write in progress, an
ACTIVE one of the current generation is handed over (R20, R22). -/
theorem barrierTrigger_cases {s : State} (hb : s.bridge = .running) :
    let t := s.barrierTrigger
    let barrier : Prop := s.anchorClean = true ∧ s.log.anchorOp = .idle
    let a := s.buildAnchor .active s.log.volatileTail s.log.gen
    t = { s with log := { s.log with anchorOp := t.log.anchorOp }, mport := t.mport } ∧
    (barrier → t.log.anchorOp = .writing s.nextCopy a .running ∧ t.mport = { s.mport with logQ := s.mport.logQ ++
      [⟨.anchorWrite, true, s.geo.anchorAddr s.nextCopy, 64, spanMask 96 0 64, a.bytes⟩] }) ∧
    (¬ barrier → t.log.anchorOp = s.log.anchorOp ∧ t.mport = s.mport) := by
  dsimp only
  unfold State.barrierTrigger
  by_cases h : s.anchorClean = true ∧ s.log.anchorOp = .idle
  · rw [if_pos ⟨hb, h⟩]
    exact ⟨rfl, fun _ => ⟨rfl, rfl⟩, fun hn => absurd h hn⟩
  · rw [if_neg fun x => h x.2]
    exact ⟨rfl, fun hy => absurd hy h, fun _ => ⟨rfl, rfl⟩⟩

/-! ### What the next anchor is built from -/

theorem anchorClean_congr {s t : State} (h : t.log.newest = s.log.newest) : t.anchorClean = s.anchorClean := by
  unfold State.anchorClean; rw [h]

theorem nextCopy_congr {s t : State} (h : t.log.newest = s.log.newest) : t.nextCopy = s.nextCopy := by
  unfold State.nextCopy; rw [h]

theorem geo_congr {s t : State} (h : t.log.geometry = s.log.geometry) : t.geo = s.geo := by
  unfold State.geo; rw [h]

/-! ### The whole step -/

/-- The state in which a write's PAD, if it needs one, is allocated: its group is joined and its claim made. -/
def State.joined (s : State) (k : Key) (line : Nat) (p : Plan) : State := { s with
  grp := { s.grp with
    slots := s.grp.slots.set p.slot (s.joinedSlot k p)
    claims := s.grp.claims ++ if p.claims = true then [⟨line, p.slot, 0⟩] else [] } }

/-- A write with a record enters the part; what it leaves before the clean barrier is looked at. -/
def State.withRecord (s : State) (source : Source) (tag : ReqTag) (line : Nat) (mask : BitVec 64) (data : List Byte)
    (k : Key) (p : Plan) (first count : Nat) : State :=
  let pad := padSlots s.geo s.log.head (beforeSlots count)
  let pos := s.log.head + pad
  ((((((s.joined k line p).allocatePad pad).allocateBefore p.slot line first count).recomputeTail).enterFlight
    ⟨source, tag, .journaled line mask data p.slot (some ⟨pos, first, count⟩), .biRead⟩).handOver
    ⟨.biRead pos, false, lineAddr line + first, count, 0, []⟩)

theorem admitJournaled_withRecord {s : State} {source : Source} {tag : ReqTag} {line : Nat} {mask : BitVec 64}
    {data : List Byte} {group : GroupNo} {p : Plan} {first count : Nat} (h : p.span = some (first, count)) :
    s.admitJournaled source tag line mask data group p =
      (s.withRecord source tag line mask data ⟨source, group⟩ p first count).barrierTrigger := by
  have hpos : ((s.joined ⟨source, group⟩ line p).allocatePad (padSlots s.geo s.log.head (beforeSlots count))).log.head =
      s.log.head + padSlots s.geo s.log.head (beforeSlots count) := by
    rw [allocatePad_eq]; rfl
  simp only [State.admitJournaled, h, makeClaim_joinGroup, State.withRecord]
  rw [← hpos]
  rfl

/-- What a write with a record changes before the clean barrier is looked at, field by field. -/
theorem withRecord_fields (s : State) (source : Source) (tag : ReqTag) (line : Nat) (mask : BitVec 64) (data : List Byte)
    (k : Key) (p : Plan) (first count : Nat) :
    let size := beforeSlots count
    let pad := padSlots s.geo s.log.head size
    let pos := s.log.head + pad
    let g := s.joinedSlot k p
    let low : Nat → Prop := fun head => s.freeAt head < s.link.policy.lowWater
    let padded : NoticeUnit := if pad ≠ 0 ∧ low pos ∧ s.log.lowArmed = true
      then (s.post .logLow Key.zero .none (s.freeAt pos) pos).notes else s.notes
    let armed : Bool := if pad = 0 then s.log.lowArmed else decide (s.link.policy.lowWater ≤ s.freeAt pos)
    let header : Header := ⟨.before, size, g.key, false, pos, s.log.gen, if g.records = 0 then 0 else pos - g.newest, line,
      first, count, 0⟩
    let w := s.withRecord source tag line mask data k p first count
    w.grp = { s.grp with
      slots := s.grp.slots.set p.slot { g with
        newest := pos, first := if g.records = 0 then pos else g.first, records := g.records + 1 }
      claims := s.grp.claims ++ if p.claims = true then [⟨line, p.slot, 0⟩] else [] } ∧
    w.log = { s.log with
      head := pos + size
      window := s.log.window ++ (if pad = 0 then [] else [s.padHeader pad]) ++ [header]
      volatileTail := w.lowestFirst
      lowArmed := decide (s.link.policy.lowWater ≤ s.freeAt (pos + size)) } ∧
    w.mport = { s.mport with logQ := s.mport.logQ ++ (if pad = 0 then [] else [s.padWrite pad]) ++
      [⟨.biRead pos, false, lineAddr line + first, count, 0, []⟩] } ∧
    w.notes = (if low (pos + size) ∧ armed = true
      then (({ s with notes := padded } : State).post .logLow Key.zero .none (s.freeAt (pos + size)) (pos + size)).notes
      else padded) ∧
    w = { s with
      host := { s.host with inflight := s.host.inflight ++
        [⟨source, tag, .journaled line mask data p.slot (some ⟨pos, first, count⟩), .biRead⟩] }
      grp := w.grp, log := w.log, mport := w.mport, notes := w.notes } := by
  have hslot : (s.joined k line p).slot p.slot = s.joinedSlot k p := slot_of_set_self rfl
  dsimp only
  unfold State.withRecord
  dsimp only
  rw [allocatePad_eq, allocateBefore_eq (g := s.joinedSlot k p)]
  · refine ⟨?_, rfl, rfl, rfl, rfl⟩
    exact congrArg (fun slots => ({ (s.joined k line p).grp with slots := slots } : GroupSide)) (Vector.set_set _ _)
  · exact hslot

/-! ### Room for the step (R12, R27, R62) -/

/-- The places a write's records need are left beside the closing records that are due (R12, R62, log 13). -/
theorem placesFor_le_iff (s : State) (count : Nat) : s.placesFor count ≤ s.admissionPlaces ↔
    (if padSlots s.geo s.log.head (beforeSlots count) = 0 then 1 else 2) + s.log.window.length + s.log.due.length ≤ 8 := by
  simp only [State.placesFor, State.admissionPlaces, Config.windowDepth]
  split <;> omega

theorem settleFront_fullFlight {s : State} {r : Request} {p : Plan} (hf : ¬ s.host.inflight.length < 32) :
    s.settleFront r (.journal p) = s.pausedFront .inFlight := by
  have hroom : s.inflightRoom = false := decide_eq_false hf
  delta State.settleFront State.shortage
  simp only [hroom]
  rfl

section
variable {s : State} {r : Request} {p : Plan} {first count : Nat} (h : p.span = some (first, count))
include h

theorem settleFront_noPlaces (hf : s.host.inflight.length < 32) (hp : ¬ s.placesFor count ≤ s.admissionPlaces) :
    s.settleFront r (.journal p) = s.pausedFront .window := by
  have hroom : s.inflightRoom = true := decide_eq_true hf
  delta State.settleFront State.shortage
  simp only [hroom, h, if_neg hp]
  rfl

theorem settleFront_journal (hf : s.host.inflight.length < 32) (hp : s.placesFor count ≤ s.admissionPlaces) :
    s.settleFront r (.journal p) = s.takeFront.admitRequest r (.journal p) := by
  have hroom : s.inflightRoom = true := decide_eq_true hf
  delta State.settleFront State.shortage
  simp only [hroom, h, if_pos hp]
  rfl

end

/-! ### The statement -/

theorem findSlot_key {s : State} {k : Key} {i : SlotNo} (h : s.findSlot k = some i) : (s.slot i).key = k := by
  have := List.find?_some h
  simp only [Bool.and_eq_true, decide_eq_true_eq] at this
  exact this.2

/-- The slot of a write that may be journaled, once its group is joined: its key is the write's, and it is a new group's
exactly when the write opens it. -/
theorem joinedSlot_of_mayJournal {s : State} {k : Key} {line : Nat} {i : SlotNo} {opens claims : Bool} {logged : BitVec 64}
    {span : Option (Nat × Nat)} (h : s.mayJournal k line i opens claims logged) :
    s.joinedSlot k ⟨i, opens, claims, span⟩ =
      if opens = true then ⟨.opened, k, 0, 0, 0, 1, 1, s.idleStart, false, none, none, none⟩
      else { s.slot i with
        claims := (s.slot i).claims + (if claims = true then 1 else 0)
        inflight := (s.slot i).inflight + 1
        idle := s.idleStart } := by
  obtain ⟨-, -, -, -, -, hline⟩ := h
  cases opens
  · rfl
  · cases claims
    · simp at hline
    · rfl

theorem joinedSlot_key {s : State} {k : Key} {line : Nat} {i : SlotNo} {opens claims : Bool} {logged : BitVec 64}
    {span : Option (Nat × Nat)} (h : s.mayJournal k line i opens claims logged) :
    (s.joinedSlot k ⟨i, opens, claims, span⟩).key = k := by
  rw [joinedSlot_of_mayJournal h]
  obtain ⟨-, -, -, -, hslot, -⟩ := h
  cases opens
  · exact findSlot_key hslot.1
  · rfl

/-- The back distance of a write's BEFORE: 0 for its group's first record (R5). -/
theorem joinedSlot_back {s : State} {k : Key} {line : Nat} {i : SlotNo} {opens claims : Bool} {logged : BitVec 64}
    {span : Option (Nat × Nat)} (h : s.mayJournal k line i opens claims logged) (pos : Nat) :
    (if (s.joinedSlot k ⟨i, opens, claims, span⟩).records = 0 then 0
      else pos - (s.joinedSlot k ⟨i, opens, claims, span⟩).newest) =
    if opens = true ∨ (s.slot i).records = 0 then 0 else pos - (s.slot i).newest := by
  rw [joinedSlot_of_mayJournal h]
  cases opens <;> simp

/-- LOG_LOW is armed for the BEFORE's comparison: as it was without a PAD, and by the PAD's comparison with one (R24). -/
theorem armed_iff {low : Bool} {water free : Nat} (n : Nat) :
    (if n = 0 then low else decide (water ≤ free)) = true ↔ if n = 0 then low = true else ¬ free < water := by
  split <;> simp

/-- Settles O24: short of room the admission unit pauses; otherwise the step is the one `withRecord_fields` describes, with
the clean barrier behind it. -/
theorem journaledWriteAdmitted : Obligations.JournaledWriteAdmitted := by
  intro s src tag line mask data g rest i opens claims logged first count
  dsimp only
  intro hfront hmask hj hspan hreserve
  have hrunning := hj.1
  have hin := hfront.2
  have hres : s.reserveHolds (neededSpan mask logged) = true := by rw [hspan, reserveHolds_some_iff]; exact hreserve
  have hverdict := writeVerdict_of_mayJournal (mask := mask) hj
  dsimp only at hverdict
  rw [exec_admitWrite hfront hmask, hverdict, if_pos hres, hspan]
  have hplaces := placesFor_le_iff s count
  refine ⟨fun he => ?_, fun he hp => ?_, fun he hp => ?_⟩
  · rw [settleFront_fullFlight he]
  · rw [settleFront_noPlaces rfl he fun h => hp (hplaces.1 h)]
  · rw [settleFront_journal rfl he (hplaces.2 hp)]
    change ∃ t, Host.Outcome.next (s.takeFront.admitJournaled src tag line.toNat mask data g
      ⟨i, opens, claims, some (first, count)⟩) = .next t ∧ _
    rw [admitJournaled_withRecord rfl]
    have hf := withRecord_fields s.takeFront src tag line.toNat mask data ⟨src, g⟩ ⟨i, opens, claims, some (first, count)⟩
      first count
    dsimp only at hf
    have hg : s.takeFront.joinedSlot ⟨src, g⟩ ⟨i, opens, claims, some (first, count)⟩ = _ := joinedSlot_of_mayJournal hj
    have hkey : (s.takeFront.joinedSlot ⟨src, g⟩ ⟨i, opens, claims, some (first, count)⟩).key = _ := joinedSlot_key hj
    have hjt : s.takeFront.mayJournal ⟨src, g⟩ line.toNat i opens claims logged := hj
    have hback := joinedSlot_back (span := some (first, count)) hjt
    set w := s.takeFront.withRecord src tag line.toNat mask data ⟨src, g⟩ ⟨i, opens, claims, some (first, count)⟩ first
      count
    clear_value w
    obtain ⟨hgrp, hlog, hmport, hnotes, heq⟩ := hf
    have hwb : w.bridge = .running := by rw [heq]; exact hrunning
    obtain ⟨ht, hyes, hno⟩ := barrierTrigger_cases hwb
    set t := w.barrierTrigger
    clear_value t
    have htlog : t.log = { w.log with anchorOp := t.log.anchorOp } := (congrArg State.log ht :)
    have htail : t.log.volatileTail = w.log.volatileTail := (congrArg LogSide.volatileTail htlog :)
    have hslots : t.grp.slots = w.grp.slots := (congrArg (fun x : State => x.grp.slots) ht :)
    have hslot := hslots.trans (congrArg GroupSide.slots hgrp :)
    have htnotes : t.notes = w.notes := (congrArg State.notes ht :)
    have hidle : w.log.anchorOp = s.log.anchorOp := (congrArg LogSide.anchorOp hlog :)
    have hnewest : w.log.newest = s.log.newest := (congrArg LogSide.newest hlog :)
    have hclean : w.anchorClean = s.anchorClean := anchorClean_congr hnewest
    have hcopy : w.nextCopy = s.nextCopy := nextCopy_congr hnewest
    have hgeo : w.geo = s.geo := geo_congr (congrArg LogSide.geometry hlog :)
    have hbuild : w.buildAnchor .active w.log.volatileTail w.log.gen = ⟨(s.log.newest.map (·.serial)).getD 0 + 1,
        s.log.gen, .active, s.geo.exponent, w.log.volatileTail⟩ := by
      rw [State.buildAnchor, hnewest, hgeo, show w.log.gen = s.log.gen from (congrArg LogSide.gen hlog :)]
    refine ⟨t, rfl, ?_, ?_, fun j hj' => slot_of_set_ne (s := s) hslot hj', ?_, ?_, ?_, ?_, ?_, ?_, ?_, ?_⟩
    · rw [ht]
      change w.host = _
      rw [heq]
      simp only [State.takeFront_host, hin, List.tail_cons]
      rfl
    · rw [slot_of_set_self hslot, hg]
      cases opens <;> rfl
    · rw [ht]
      change w.grp = _
      rw [hgrp]
      rfl
    · rw [htail, hlog]
      exact isVolatileTail_congr hslots (congrArg LogSide.head htlog :) (isVolatileTail_lowestFirst w)
    · refine htlog.trans ?_
      rw [htail, hlog, hkey, hback]
      rfl
    · intro hbar
      obtain ⟨hop, hq⟩ := hyes ⟨hclean ▸ hbar.1, hidle ▸ hbar.2⟩
      rw [htail, hop, hq, hmport, hcopy, hgeo, hbuild]
      exact ⟨rfl, rfl⟩
    · intro hbar
      obtain ⟨hop, hq⟩ := hno fun hb => hbar ⟨hclean ▸ hb.1, hidle ▸ hb.2⟩
      rw [hop, hq, hmport, hidle]
      exact ⟨rfl, rfl⟩
    · intro hlow
      refine (htnotes.trans hnotes).trans ?_
      exact if_pos ⟨hlow.1, (armed_iff _).2 hlow.2⟩
    · intro hlow
      refine (htnotes.trans hnotes).trans ?_
      exact if_neg fun h => hlow ⟨h.1, (armed_iff _).1 h.2⟩
    · rw [ht, heq]
      rfl

end Sys2Proof.Machine
end

section
/-! Records as bytes (R5 to R8, R168), and the before-image read that builds one (R65). -/

namespace Sys2Proof.Machine

/-! ### The layout of a record -/

theorem RecKind.code_lt (k : RecKind) : k.code < 256 := by cases k <;> decide

theorem RecKind.code_eq_one_iff (k : RecKind) : k.code = 1 ↔ k = .before := by cases k <;> decide

/-- Each field of a header whose values fit their widths. -/
structure Header.Fits (h : Header) : Prop where
  slots : h.slots < 256
  pos : h.pos < 2 ^ 64
  gen : h.gen < 2 ^ 32
  back : h.back < 2 ^ 32
  line : h.line < 2 ^ 32
  first : h.first < 256
  count : h.count < 256
  records : h.records < 65536

/-- A header's fields at their offsets, behind a check word and before whatever follows (R168). -/
theorem header_layout {h : Header} (hf : h.Fits) (check : Nat) (rest : List Byte) :
    let b := leBytes 4 check ++ (h.body ++ rest)
    field b 0 4 = check % 2 ^ 32 ∧ field b 4 1 = h.kind.code ∧ field b 5 1 = h.slots ∧
    field b 6 1 = h.key.source.val * 16 + h.key.group.val ∧ field b 7 1 = (if h.unrestored = true then 1 else 0) ∧
    field b 8 8 = h.pos ∧ field b 16 4 = h.gen ∧ field b 20 4 = h.back ∧ field b 24 4 = h.line ∧
    field b 28 1 = h.first ∧ field b 29 1 = h.count ∧ field b 30 2 = h.records := by
  obtain ⟨hslots, hpos, hgen, hback, hline, hfirst, hcount, hrecords⟩ := hf
  have hout : (if h.unrestored = true then 1 else 0) % 256 = if h.unrestored = true then 1 else 0 :=
    Nat.mod_eq_of_lt (lt_trans (bool_toNat_lt _) (by decide))
  norm_num at hpos hgen hback hline
  simp [Header.body, field_leBytes_append, field_leBytes_append_of_le, field_byte, field_byte_of_pos, Key.byte_toNat,
    Nat.mod_eq_of_lt h.kind.code_lt, hout, Nat.mod_eq_of_lt hslots, Nat.mod_eq_of_lt hpos, Nat.mod_eq_of_lt hgen,
    Nat.mod_eq_of_lt hback, Nat.mod_eq_of_lt hline, Nat.mod_eq_of_lt hfirst, Nat.mod_eq_of_lt hcount,
    Nat.mod_eq_of_lt hrecords]

/-- A header read back has each field that was laid out. -/
theorem header_readBack {h : Header} (hf : h.Fits) (check : Nat) (rest : List Byte) :
    let b := leBytes 4 check ++ (h.body ++ rest)
    RawHeader.parse b = ⟨field b 0 4, h.kind.code, h.slots, h.key.source.val * 16 + h.key.group.val,
      if h.unrestored = true then 1 else 0, h.pos, h.gen, h.back, h.line, h.first, h.count, h.records⟩ := by
  obtain ⟨-, h1, h2, h3, h4, h5, h6, h7, h8, h9, h10, h11⟩ := header_layout hf check rest
  simp only [RawHeader.parse, h1, h2, h3, h4, h5, h6, h7, h8, h9, h10, h11]

/-- The two parts of a record: behind the check word, and behind the header. -/
theorem drop_four (check : Nat) (ys : List Byte) : (leBytes 4 check ++ ys).drop 4 = ys :=
  List.drop_left' (leBytes_length 4 check)

theorem drop_header (h : Header) (check : Nat) (ys : List Byte) : (leBytes 4 check ++ (h.body ++ ys)).drop 32 = ys := by
  rw [← List.append_assoc]
  exact List.drop_left' (by simp)

theorem Header.bytes_eq (h : Header) : h.bytes = leBytes 4 (crc32c h.body) ++ (h.body ++ []) := by
  rw [List.append_nil]; rfl

theorem Header.bytesWith_eq (h : Header) (payload : List Byte) : h.bytesWith payload =
    leBytes 4 (crc32c (h.body ++ payload)) ++
      (h.body ++ (payload ++ List.replicate (32 * h.slots - (32 + payload.length)) 0)) := by
  simp [Header.bytesWith, padTo]
  omega

/-- A BEFORE passes its check when its payload was read whole and the word computed over header and payload is the stored
one; another record when the word computed over its header is (R8). -/
theorem checkPasses_iff (b : List Byte) : (RawHeader.parse b).checkPasses b = true ↔
    (field b 4 1 ≠ 1 → crc32c ((b.drop 4).take 28) = field b 0 4) ∧
    (field b 4 1 = 1 → ((b.drop 32).take (field b 29 1)).length = field b 29 1 ∧
      crc32c ((b.drop 4).take 28 ++ (b.drop 32).take (field b 29 1)) = field b 0 4) := by
  change (if field b 4 1 = 1 then _ else _) = true ↔ _
  by_cases hk : field b 4 1 = 1
  · rw [if_pos hk, Bool.and_eq_true, decide_eq_true_eq, decide_eq_true_eq]
    exact ⟨fun h => ⟨fun hn => absurd hk hn, fun _ => h⟩, fun h => h.2 hk⟩
  · rw [if_neg hk, decide_eq_true_eq]
    exact ⟨fun h => ⟨fun _ => h, fun hy => absurd hy hk⟩, fun h => h.1 hk⟩

/-- The check word over a header alone, as a record write carries it. -/
theorem header_check {h : Header} (hf : h.Fits) (hk : h.kind ≠ .before) :
    (RawHeader.parse h.bytes).checkPasses h.bytes = true := by
  obtain ⟨hcheck, hkind, -⟩ := header_layout hf (crc32c h.body) []
  rw [← Header.bytes_eq] at hcheck hkind
  refine (checkPasses_iff _).2 ⟨fun _ => ?_, fun h1 => absurd ((RecKind.code_eq_one_iff _).1 (hkind ▸ h1)) hk⟩
  rw [hcheck, Nat.mod_eq_of_lt (crc32c_lt _), Header.bytes_eq, drop_four, List.take_left' (Header.body_length h)]

/-- The check word over header and payload, as the record write of a BEFORE carries it. -/
theorem before_check {h : Header} (hf : h.Fits) (hk : h.kind = .before) {payload : List Byte}
    (hp : payload.length = h.count) : (RawHeader.parse (h.bytesWith payload)).checkPasses (h.bytesWith payload) = true := by
  obtain ⟨hcheck, hkind, -, -, -, -, -, -, -, -, hcount, -⟩ := header_layout hf (crc32c (h.body ++ payload))
    (payload ++ List.replicate (32 * h.slots - (32 + payload.length)) 0)
  have hcode := (RecKind.code_eq_one_iff h.kind).2 hk
  rw [checkPasses_iff, Header.bytesWith_eq, hcheck, hkind, hcount, Nat.mod_eq_of_lt (crc32c_lt _), drop_four, drop_header,
    List.take_left' (Header.body_length h), List.take_left' hp]
  exact ⟨fun hn => absurd hcode hn, fun _ => ⟨hp, rfl⟩⟩

/-! ### The before-image read -/

theorem isLive_iff (e : Inflight) (source : Source) (tag : ReqTag) :
    e.isLive source tag = true ↔ e.source = source ∧ e.tag = tag ∧ e.stage ≠ .done := by
  simp [Inflight.isLive, and_assoc]

/-- The owner of a record moves to a stage (R65, R66). -/
theorem moveOwner_of_owner {s : State} {pos : Nat} {e : Inflight} (h : s.ownerOf pos = some e) (st : Stage) :
    s.moveOwner pos st = { s with host := { s.host with inflight := s.host.inflight.map fun x =>
      if x.source = e.source ∧ x.tag = e.tag ∧ x.stage ≠ .done then { x with stage := st } else x } } := by
  simp only [State.moveOwner, h, State.setStage, isLive_iff]

theorem biReadDone_faulted {s : State} (h : s.bridge = .faulted) (pos : Nat) (bytes : List Byte) :
    s.biReadDone pos bytes = s := by
  simp [State.biReadDone, h]

theorem biReadDone_of_window {s : State} (hb : s.bridge ≠ .faulted) {pos : Nat} {h : Header}
    (hw : s.windowAt pos = some h) (bytes : List Byte) :
    s.biReadDone pos bytes = (s.moveOwner pos .recWrite).writeRecord h false (h.bytesWith bytes) := by
  simp [State.biReadDone, hb, hw]

/-- Settles O41: the row, then the layout of records built, read back and checked. -/
theorem biReadDone : Obligations.BiReadDone := by
  refine ⟨fun s t raced pos hp ha hr => ?_, fun h payload h1 h2 h3 h4 h5 h6 h7 h8 => ?_, fun b => ?_, checkPasses_iff⟩
  · obtain ⟨htaken, hmem⟩ := answerTaken_withAnswer_read (.done raced) hr
    refine ⟨_, _, exec_biReadDone hp raced ha, htaken, hmem, fun hf => ?_, fun h e hf hw ho => ?_⟩
    · exact biReadDone_faulted (by simpa using hf) _ _
    · rw [biReadDone_of_window (by simpa using hf) (by simpa using hw), moveOwner_of_owner (by simpa using ho)]
      rfl
  · have hf : h.Fits := ⟨h1, h2, h3, h4, h5, h6, h7, h8⟩
    have hkey := Key.ofByte_byte h.key
    dsimp only
    refine ⟨⟨Header.bytes_length h, ?_, ?_, ?_, header_check hf⟩, fun hk hp hfit => ⟨?_, ?_, ?_, ?_, ?_, ?_, before_check hf hk hp⟩⟩
    · rw [Header.bytes_eq]; exact (header_layout hf _ _).2
    · rw [Header.bytes_eq, header_readBack hf]; exact ⟨rfl, hkey⟩
    · rw [Header.bytes_eq, (header_layout hf _ _).1, Nat.mod_eq_of_lt (crc32c_lt _), drop_four, List.append_nil]
    · simp [Header.bytesWith_eq, hp]; omega
    · rw [Header.bytesWith_eq]; exact (header_layout hf _ _).2
    · rw [Header.bytesWith_eq, header_readBack hf]; exact ⟨rfl, hkey⟩
    · rw [Header.bytesWith_eq, drop_header, List.take_left' hp]
    · rw [Header.bytesWith_eq, ← List.drop_drop, drop_header, List.drop_left' hp]; simp
    · rw [Header.bytesWith_eq, (header_layout hf _ _).1, Nat.mod_eq_of_lt (crc32c_lt _), drop_four, ← List.append_assoc,
        List.take_left' (by simp [hp])]
  · exact ⟨rfl, rfl, rfl, rfl, rfl, rfl, rfl, rfl, rfl, rfl, rfl, rfl, rfl, rfl⟩

end Sys2Proof.Machine
end

section
/-! The answers of record writes: a record becomes durable and may end groups (R14 to R16), becomes a VOID (R17, R18), is
written once more, or puts the bridge in FAULTED (R18, R145). -/

namespace Sys2Proof.Machine

theorem windowAt_pos {s : State} {pos : Nat} {h : Header} (hw : s.windowAt pos = some h) : h.pos = pos := by
  simpa using List.find?_some hw

/-! ### A record that becomes a VOID or is written once more -/

theorem biReadFailed_faulted {s : State} (h : s.bridge = .faulted) (pos : Nat) : s.biReadFailed pos = s := by
  delta State.biReadFailed
  exact if_pos h

theorem recordFailed_faulted {s : State} (h : s.bridge = .faulted) (pos : Nat) : s.recordFailed pos = s := by
  delta State.recordFailed
  exact if_pos h

section
variable {s : State} {pos : Nat} {h : Header} (hb : s.bridge ≠ .faulted) (hw : s.windowAt pos = some h)
include hb hw

theorem biReadFailed_of_window : s.biReadFailed pos = s.voidRecord h false .readError := by
  delta State.biReadFailed
  rw [if_neg hb, hw]

theorem recordFailed_before (hk : h.kind = .before) : s.recordFailed pos = s.voidRecord h true .writeError := by
  delta State.recordFailed
  simp [hb, hw, hk]

theorem recordFailed_other (hk : h.kind ≠ .before) : s.recordFailed pos = s.writeRecord h true h.bytes := by
  delta State.recordFailed
  simp [hb, hw, hk]

end

/-- The write that owns a record is answered FAILED with MEM_ERROR (R70, R71). -/
theorem failOwner_of_owner {s : State} {pos : Nat} {e : Inflight} {l : Nat} {k : BitVec 64} {d : List Byte} {i : SlotNo}
    {r : Option RecordSpan} (h : s.ownerOf pos = some e) (hw : e.work = .journaled l k d i r) :
    s.failOwner pos = s.answerWrite e.source e.tag i (.failed .memError) := by
  simp only [State.failOwner, h, hw]

/-- A BEFORE becomes a VOID: the state in which its write is then answered, and what follows (R17, R18, R70, R71). -/
theorem voidRecord_cases {s : State} {h : Header} {e : Inflight} {l : Nat} {k : BitVec 64} {d : List Byte} {i : SlotNo}
    {r : Option RecordSpan} (ho : s.ownerOf h.pos = some e) (hw : e.work = .journaled l k d i r) (retry : Bool)
    (detail : Detail) :
    let void : Header := { h with kind := .void }
    let voided : State := { s with
      log := { s.log with window := s.log.window.map fun r => if r.pos = h.pos then { r with kind := .void } else r }
      mport := { s.mport with logQ := s.mport.logQ ++
        [⟨.recordWrite h.pos retry, true, s.geo.slotAddr h.pos, 32, spanMask 96 0 32, void.bytes⟩] }
      notes := (s.post .recordVoided h.key detail h.count h.pos).notes }
    ∃ x, ClosingStepTaken (voided.withWriteAnswered e.source e.tag i (.failed .memError)) x i ∧
      DataPhasesBegin x (s.voidRecord h retry detail) := by
  intro void voided
  have hvoid : s.voidRecord h retry detail = (voided.failOwner h.pos).promote := by
    have hlen : h.voided.bytes.length = 32 := Header.bytes_length _
    simp only [State.voidRecord, State.writeRecord, hlen]
    rfl
  have howner : voided.ownerOf h.pos = some e := ho
  rw [hvoid, failOwner_of_owner howner hw]
  exact ⟨_, answerWrite_cases _ _ _ _ _, dataPhasesBegin_promote _⟩

/-- Settles O42: both failures void the record; they differ in the detail and in whether the VOID's write is a retry. -/
theorem recordVoided : Obligations.RecordVoided := by
  intro s t landed pos hp hwf retry hread hwrite
  dsimp only
  cases retry with
  | false =>
    obtain ⟨ha, hr⟩ := hread rfl
    obtain ⟨htaken, hmem⟩ := answerTaken_withAnswer_read (.error 0) hr
    refine ⟨_, _, exec_biReadFailed hp ha, htaken, fun _ => hmem, fun hf => biReadFailed_faulted (by simpa using hf) _,
      fun h e i hb hw hk ho ⟨l, k, d, r, hwork⟩ => ?_⟩
    have hpos := windowAt_pos hw
    subst hpos
    rw [biReadFailed_of_window (by simpa using hb) (by simpa using hw)]
    exact voidRecord_cases (s := s.withAnswer t (.error 0)) ho hwork false .readError
  | true =>
    have ha := hwrite rfl
    refine ⟨_, _, exec_recordWriteFailed hp landed ha, answerTaken_withAnswer fun _ => hwf, nofun,
      fun hf => recordFailed_faulted (by simpa using hf) _, fun h e i hb hw hk ho ⟨l, k, d, r, hwork⟩ => ?_⟩
    have hpos := windowAt_pos hw
    subst hpos
    rw [recordFailed_before (by simpa using hb) (by simpa using hw) hk]
    exact voidRecord_cases (s := s.withAnswer t (.error landed)) ho hwork true .writeError

/-! ### The retry that fails -/

/-- A retry that fails where R145 lets the bridge enter FAULTED; in RECOVERING after RECOVERY_FAILED (R18, R143). -/
theorem retryFailed_cases {s : State} (hb : s.bridge = .running ∨ s.bridge = .draining ∨ s.bridge = .recovering)
    (pos : Nat) : EnteredFaulted s (s.retryFailed pos) .logWrite pos ∧
      (s.retryFailed pos).notes = ((if s.bridge = .recovering then s.post .recoveryFailed Key.zero .memError 0 pos
        else s).post .logFaulted Key.zero .logWrite 0 pos).notes := by
  rcases hb with hb | hb | hb
  · simpa [State.retryFailed, hb] using enterFaulted_cases s .logWrite pos
  · simpa [State.retryFailed, hb] using enterFaulted_cases s .logWrite pos
  · obtain ⟨hf, hn⟩ := enterFaulted_cases (s.post .recoveryFailed Key.zero .memError 0 pos) .logWrite pos
    simp only [State.retryFailed, hb, if_true]
    exact ⟨hf.of_post, hn⟩

theorem retryFailed_elsewhere {s : State} (hb : s.bridge = .gated ∨ s.bridge = .halted ∨ s.bridge = .faulted) (pos : Nat) :
    s.retryFailed pos = s := by
  rcases hb with hb | hb | hb <;> simp [State.retryFailed, hb]

/-- Settles O45. -/
theorem recordRetry : Obligations.RecordRetry := by
  intro s t landed pos hp hwf
  refine ⟨fun ha => ⟨_, _, exec_recordWriteFailed hp landed ha, answerTaken_withAnswer fun _ => hwf, fun hf => ?_,
      fun h hb hw hk => ?_⟩,
    fun ha => ⟨_, _, exec_recordRetryFailed hp landed ha, answerTaken_withAnswer fun _ => hwf, fun hb => ?_, fun hb => ?_⟩⟩
  · exact recordFailed_faulted (by simpa using hf) _
  · have hlen := Header.bytes_length h
    rw [recordFailed_other (by simpa using hb) (by simpa using hw) hk, State.writeRecord, hlen]
    rfl
  · exact retryFailed_cases (s := s.withAnswer t (.error landed)) hb pos
  · exact retryFailed_elsewhere (by simpa using hb) _

/-! ### A durable record -/

theorem recordDone_of_window {s : State} {pos : Nat} {h : Header} (hw : s.windowAt pos = some h) :
    s.recordDone pos = (((s.makeDurable h).completeClosings).promote).wakeWindow.stopCheck := by
  simp only [State.recordDone, hw]

/-- What follows the closing records of a durable record: data phases, the window's place, the recovery's stop. -/
theorem stopPointMet_promote (n : State) : ∃ d, DataPhasesBegin n d ∧
    StopPointMet d.withPlacePassed n.promote.wakeWindow.stopCheck :=
  ⟨_, dataPhasesBegin_promote n, by rw [wakeWindow_eq]; exact stopPointMet_stopCheck _⟩

/-- A durable record leaves the group slots and the bridge, and only itself leaves the window. -/
theorem RecordDurable.slot {s m : State} {t : MTag} {h : Header} (hd : RecordDurable s m t h) (i : SlotNo) :
    m.slot i = s.slot i := by
  obtain ⟨-, -, heq⟩ := hd
  exact State.slot_congr (congrArg (fun x : State => x.grp.slots) heq :) i

theorem RecordDurable.bridge {s m : State} {t : MTag} {h : Header} (hd : RecordDurable s m t h) :
    m.bridge = s.bridge := by
  obtain ⟨-, -, heq⟩ := hd
  exact (congrArg State.bridge heq :)

theorem RecordDurable.log {s m : State} {t : MTag} {h : Header} (hd : RecordDurable s m t h) :
    m.log = { s.log with window := s.log.window.filter fun r => decide (r.pos ≠ h.pos) } := by
  obtain ⟨-, -, heq⟩ := hd
  exact (congrArg State.log heq :)

/-- A closing record lies wholly behind the frontier of a durable record: it is below the head and every other record of
the window (R14, R16). -/
theorem RecordDurable.behindFrontier_iff {s m : State} {t : MTag} {h : Header} (hd : RecordDurable s m t h) (p : Nat) :
    m.behindFrontier p 1 = true ↔ p < s.log.head ∧ ∀ r ∈ s.log.window, r.pos ≠ h.pos → p < r.pos := by
  rw [Machine.behindFrontier_iff, hd.log]
  simp only [List.mem_filter, decide_eq_true_eq, and_imp, Nat.succ_le_iff]

theorem completeClosings_faulted {m : State} (h : m.bridge = .faulted) : m.completeClosings = m := if_pos h

theorem completeClosings_of_complete {m : State} {ends : List SlotNo} (hb : m.bridge ≠ .faulted)
    (h : m.completeSlots = ends) : m.completeClosings = ends.foldl State.completeClosing m := by
  rw [State.completeClosings, if_neg hb, h]

/-- Settles O43: no noted closing record is behind the frontier, so none completes. -/
theorem recordWriteDone : Obligations.RecordWriteDone := by
  intro s t pos retry h hp hwf ha hw hnone
  have hd : RecordDurable s ((s.withAnswer t (.done [])).makeDurable h) t h := recordDurable_makeDurable s t h fun _ => hwf
  set m := (s.withAnswer t (.done [])).makeDurable h
  have hstay : m.completeClosings = m := by
    by_cases hb : m.bridge = .faulted
    · exact completeClosings_faulted hb
    · refine completeClosings_of_complete hb (List.eq_nil_iff_forall_not_mem.2 fun i hi => ?_)
      obtain ⟨p, hc, hbehind⟩ := (mem_completeSlots m i).1 hi
      rw [hd.slot] at hc
      obtain ⟨r, hr, hne, hle⟩ := (hnone.resolve_left (hd.bridge ▸ hb)) i p hc
      have := ((hd.behindFrontier_iff p).1 hbehind).2 r hr (windowAt_pos hw ▸ hne)
      omega
  obtain ⟨d, hphases, hstop⟩ := stopPointMet_promote m
  refine ⟨m, d, _, exec_recordWriteDone hp ha, hd, hphases, ?_⟩
  rw [recordDone_of_window (by simpa using hw), hstay]
  exact hstop

/-- Settles O44: the closing records behind the frontier are the ones named, and complete in their order. -/
theorem groupEnds : Obligations.GroupEnds := by
  refine ⟨isVolatileTail_lowestFirst, fun s t pos retry h ends hp hwf ha hw hb _ hmem hsorted hstates => ?_⟩
  have hd : RecordDurable s ((s.withAnswer t (.done [])).makeDurable h) t h := recordDurable_makeDurable s t h fun _ => hwf
  set m := (s.withAnswer t (.done [])).makeDurable h
  have hcomplete : m.completeSlots = ends := by
    refine completeSlots_eq m ends (fun i => ?_) ?_
    · simp only [hmem, hd.slot, hd.behindFrontier_iff, windowAt_pos hw]
    · simpa only [hd.slot] using hsorted
  have hends : GroupsEnd ends m (ends.foldl State.completeClosing m) :=
    groupsEnd_foldl ends m (hcomplete ▸ completeSlots_nodup m) (by simpa only [hd.slot] using hstates)
  obtain ⟨d, hphases, hstop⟩ := stopPointMet_promote (ends.foldl State.completeClosing m)
  refine ⟨m, _, d, _, exec_recordWriteDone hp ha, hd, hends, hphases, ?_⟩
  rw [recordDone_of_window (by simpa using hw), completeClosings_of_complete (hd.bridge ▸ hb) hcomplete]
  exact hstop

end Sys2Proof.Machine
end

section
/-! The answers of running and drain anchor writes: the newest durable anchor, the follow-up, the retry (R20 to R23). -/

namespace Sys2Proof.Machine

/-! ### A newly durable anchor -/

/-- Adopting an anchor changes hold marks, the low-water flag, notices and what the log keeps of its newest anchor. -/
theorem AnchorAdopted.eq {m n : State} {c : Copy} {a : Anchor} (h : AnchorAdopted m n c a) : n = { m with
    host := { m.host with holds := n.host.holds }
    log := { m.log with
      newest := some ⟨c, a.serial, a.state, a.tail⟩
      persistedTail := a.tail
      failures := 0
      anchorOp := .idle
      lowArmed := n.log.lowArmed }
    notes := n.notes } := by
  obtain ⟨hstays, hrises⟩ := h
  by_cases hr : m.freeSlots < ({ m with log := { m.log with
      newest := some ⟨c, a.serial, a.state, a.tail⟩
      persistedTail := a.tail
      failures := 0
      anchorOp := .idle } } : State).freeSlots
  · rw [hrises hr]
  · rw [hstays hr]

theorem AnchorAdopted.mport {m n : State} {c : Copy} {a : Anchor} (h : AnchorAdopted m n c a) : n.mport = m.mport :=
  (congrArg State.mport h.eq :)

theorem AnchorAdopted.bridge {m n : State} {c : Copy} {a : Anchor} (h : AnchorAdopted m n c a) : n.bridge = m.bridge :=
  (congrArg State.bridge h.eq :)

/-- Data phases leave the log, the bridge and the LOG queue. -/
theorem DataPhasesBegin.log {n d : State} (h : DataPhasesBegin n d) : d.log = n.log := by
  obtain ⟨qs, -, heq⟩ := h
  exact (congrArg State.log heq :)

theorem DataPhasesBegin.bridge {n d : State} (h : DataPhasesBegin n d) : d.bridge = n.bridge := by
  obtain ⟨qs, -, heq⟩ := h
  exact (congrArg State.bridge heq :)

theorem DataPhasesBegin.logQ {n d : State} (h : DataPhasesBegin n d) : d.mport.logQ = n.mport.logQ := by
  obtain ⟨qs, -, heq⟩ := h
  exact (congrArg (fun x : State => x.mport.logQ) heq :)

/-! ### The follow-up -/

theorem followUp_cleared_of_false {s : State} (h : s.log.followUp = false) :
    ({ s with log := { s.log with followUp := false } } : State) = s := by
  rw [← h]

/-- A noted follow-up of no use, or none, leaves only its mark cleared (R21). -/
theorem followUpAnchor_stays {s : State}
    (h : ¬ (s.log.followUp = true ∧ s.bridge = .running ∧ s.log.persistedTail < s.log.volatileTail)) :
    s.followUpAnchor = { s with log := { s.log with followUp := false } } := by
  unfold State.followUpAnchor
  by_cases hf : s.log.followUp = true
  · rw [if_pos hf]
    exact if_neg fun hdue => h ⟨hf, hdue⟩
  · rw [if_neg hf, followUp_cleared_of_false (by simpa using hf)]

/-- A noted follow-up is written once the volatile tail has moved past the persisted one (R21). -/
theorem followUpAnchor_writes {s : State} (ho : s.log.anchorOp = .idle)
    (h : s.log.followUp = true ∧ s.bridge = .running ∧ s.log.persistedTail < s.log.volatileTail) :
    s.followUpAnchor =
      ({ s with log := { s.log with followUp := false } } : State).launchAnchor .active s.log.volatileTail .running := by
  obtain ⟨hf, hdue⟩ := h
  unfold State.followUpAnchor
  rw [if_pos hf]
  exact (if_pos hdue).trans (if_pos ho)

/-! ### Running and drain anchors -/

/-- An anchor write that a row hands over, built from the log as it stands (R20). -/
theorem launchAnchor_eq (s : State) (st : AnchorState) (tail : Nat) (use : AnchorUse) :
    let a : Anchor := ⟨(s.log.newest.map (·.serial)).getD 0 + 1, s.log.gen, st, s.geo.exponent, tail⟩
    s.launchAnchor st tail use = { s with
      log := { s.log with anchorOp := .writing s.nextCopy a use }
      mport := { s.mport with logQ := s.mport.logQ ++
        [⟨.anchorWrite, true, s.geo.anchorAddr s.nextCopy, 64, spanMask 96 0 64, a.bytes⟩] } } := rfl

section
variable {s : State} {c : Copy} {a : Anchor}

theorem anchorAnswered_running (h : s.log.anchorOp = .writing c a .running) :
    s.anchorAnswered false = (s.adoptAnchor c a).promote.followUpAnchor := by
  delta State.anchorAnswered; rw [h]; rfl

theorem anchorAnswered_drain (h : s.log.anchorOp = .writing c a .drain) :
    s.anchorAnswered false = s.drainDone c a := by
  delta State.anchorAnswered; rw [h]; rfl

theorem anchorAnswered_freshFirst (h : s.log.anchorOp = .writing c a .freshFirst) :
    s.anchorAnswered false = s.freshSecond c a := by
  delta State.anchorAnswered; rw [h]; rfl

theorem anchorAnswered_freshSecond (h : s.log.anchorOp = .writing c a .freshSecond) :
    s.anchorAnswered false = s.freshDone c a := by
  delta State.anchorAnswered; rw [h]; rfl

theorem anchorAnswered_recovery (h : s.log.anchorOp = .writing c a .recovery) :
    s.anchorAnswered false = s.recovered c a := by
  delta State.anchorAnswered; rw [h]; rfl

theorem anchorAnswered_recovery_failed (h : s.log.anchorOp = .writing c a .recovery) :
    s.anchorAnswered true = s.finalFailed c := by
  delta State.anchorAnswered; rw [h]; rfl

theorem anchorAnswered_fresh_failed {u : AnchorUse} (h : s.log.anchorOp = .writing c a u)
    (hu : u = .freshFirst ∨ u = .freshSecond) : s.anchorAnswered true = s.freshFailed c := by
  delta State.anchorAnswered; rw [h]; rcases hu with rfl | rfl <;> rfl

theorem anchorAnswered_failed {u : AnchorUse} (h : s.log.anchorOp = .writing c a u)
    (hu : u = .running ∨ u = .drain) : s.anchorAnswered true = s.anchorFailed c u := by
  delta State.anchorAnswered; rw [h]; rcases hu with rfl | rfl <;> rfl

end

/-- The first failure in a row waits for its retry (R23). -/
theorem anchorFailed_first {s : State} (hb : s.bridge = .running ∨ s.bridge = .draining) (hf : s.log.failures = 0)
    (c : Copy) (u : AnchorUse) : s.anchorFailed c u = { s with
      log := { s.log with failures := 1, anchorOp := .retryWait c (s.now + 1000) u, followUp := false }
      notes := (s.post .anchorError Key.zero (.copy c) 0 0).notes } := by
  have hone : s.log.failures + 1 ≤ 1 := by omega
  calc s.anchorFailed c u
    _ = { s with
        log := { s.log with
          failures := s.log.failures + 1, anchorOp := .retryWait c (s.now + 1000) u, followUp := false }
        notes := (s.post .anchorError Key.zero (.copy c) 0 0).notes } := (if_pos hb).trans (if_pos hone)
    _ = _ := by rw [hf]

/-- The second failure in a row puts the bridge in FAULTED (R23, R145). -/
theorem anchorFailed_second {s : State} (hb : s.bridge = .running ∨ s.bridge = .draining) (hf : 1 ≤ s.log.failures)
    (c : Copy) (u : AnchorUse) :
    let t : State := { s with log := { s.log with failures := s.log.failures + 1, anchorOp := .idle } }
    s.anchorFailed c u = (t.post .anchorError Key.zero (.copy c) 0 0).enterFaulted .anchorWrite 0 := by
  have hmore : ¬ s.log.failures + 1 ≤ 1 := by omega
  exact (if_pos hb).trans (if_neg hmore)

/-- Elsewhere a failure is posted and counted (R145, R146). -/
theorem anchorFailed_elsewhere {s : State} (hr : s.bridge ≠ .running) (hd : s.bridge ≠ .draining) (c : Copy)
    (u : AnchorUse) : s.anchorFailed c u = { s with
      log := { s.log with failures := s.log.failures + 1, anchorOp := .idle }
      notes := (s.post .anchorError Key.zero (.copy c) 0 0).notes } := by
  exact if_neg (not_or.2 ⟨hr, hd⟩)

theorem anchorRetry_of_wait {s : State} {c : Copy} {due : Nat} {u : AnchorUse}
    (h : s.log.anchorOp = .retryWait c due u) : s.anchorRetry =
      if due ≤ s.now ∧ (s.bridge = .running ∨ s.bridge = .draining) then
        s.writeAnchor c (s.buildAnchor (if u = .drain ∧ s.slotsInUse = 0 then .clean else .active) s.log.volatileTail
          s.log.gen) u
      else s := by
  unfold State.anchorRetry
  rw [h]

/-- Settles O47. -/
theorem anchorWriteAnswered : Obligations.AnchorWriteAnswered := by
  intro s t landed c hp hwf write
  refine ⟨?_, fun a use hu ha hop hb => ?_, fun a use hu ha hop hr hd => ?_, ?_⟩
  · intro a ha hop next follows
    set m := s.withAnswer t (.done [])
    have had := anchorAdopted_adoptAnchor m c a
    have hph := dataPhasesBegin_promote (m.adoptAnchor c a)
    set n := m.adoptAnchor c a
    have hlog : n.promote.log = _ := hph.log.trans (congrArg State.log had.eq :)
    have hidle : n.promote.log.anchorOp = .idle := by rw [hlog]
    have hfollows : follows ↔ n.promote.log.followUp = true ∧ n.promote.bridge = .running ∧
        n.promote.log.persistedTail < n.promote.log.volatileTail := by
      rw [hlog, hph.bridge, had.bridge]
      exact Iff.rfl
    refine ⟨m, n, n.promote, n.promote.followUpAnchor, ?_, answerTaken_withAnswer fun _ => hwf, had, hph,
      fun hf => followUpAnchor_stays (hfollows.not.1 hf), fun hf => ?_⟩
    · rw [exec_anchorWriteDone hp ha hop rfl, anchorAnswered_running (by simpa using hop)]
    · have hq : n.promote.mport.logQ = s.mport.logQ := hph.logQ.trans (congrArg MPort.logQ had.mport : _ = m.mport.logQ)
      have hgeo : n.promote.geo = s.geo := geo_congr (by rw [hlog]; rfl)
      rw [followUpAnchor_writes hidle (hfollows.1 hf), launchAnchor_eq]
      have hcopy : ({ n.promote with log := { n.promote.log with followUp := false } } : State).nextCopy = c.other := by
        unfold State.nextCopy
        rw [hlog]
      have hgeo' : ({ n.promote with log := { n.promote.log with followUp := false } } : State).geo = s.geo := hgeo
      rw [hcopy, hgeo', ← hq]
      rw [hlog]
      rfl
  · set m := s.withAnswer t (.error landed)
    have hfail := anchorAnswered_failed (s := m) hop hu
    refine ⟨m, m.anchorFailed c use, ?_, answerTaken_withAnswer fun _ => hwf, fun hf => anchorFailed_first (s := m) hb hf c use,
      fun hf => ?_⟩
    · rw [exec_anchorWriteFailed hp ha hop landed hu, hfail]
    · rw [anchorFailed_second (s := m) hb hf]
      obtain ⟨hin, hnotes⟩ := enterFaulted_cases _ _ _
      exact ⟨hnotes, hin.of_post⟩
  · refine ⟨s.withAnswer t (.error landed), answerTaken_withAnswer fun _ => hwf, ?_⟩
    rw [exec_anchorWriteFailed hp ha hop landed hu, anchorAnswered_failed (by simpa using hop) hu,
      anchorFailed_elsewhere (by simpa using hr) (by simpa using hd)]
    rfl
  · intro due use hop a may
    refine ⟨fun hm => (live_of_power hp _).trans ?_, fun hm => (live_of_power hp _).trans ?_⟩
    · rw [anchorRetry_of_wait hop, if_pos hm]
      rfl
    · rw [anchorRetry_of_wait hop, if_neg hm]

end Sys2Proof.Machine
end

section
/-! The anchors that end a drain, a START FRESH and a recovery (R127, R128, R137, R142). -/

namespace Sys2Proof.Machine

/-! ### The tables that an end looks at -/

theorem slotsInUse_eq_zero_iff (s : State) : s.slotsInUse = 0 ↔ ∀ i, (s.slot i).state = .free := by
  simp [State.slotsInUse, List.filter_eq_nil_iff, mem_allSlots]

theorem slotsInUse_congr {s t : State} (h : t.grp.slots = s.grp.slots) : t.slotsInUse = s.slotsInUse := by
  have e : t.slot = s.slot := funext fun i => State.slot_congr h i
  unfold State.slotsInUse
  rw [e]

/-! ### The end of a drain -/

/-- What R127 asks of the state before the drain ends. -/
theorem drainOver_iff (s : State) : s.drainOver = true ↔
    s.bridge = .draining ∧ (∀ e ∈ s.host.inflight, e.work.isWrite = true → e.stage = .done) ∧
      (∀ i, (s.slot i).state ≠ .committing) ∧ s.log.window = [] ∧ s.log.due = [] ∧
      (∀ w, s.grp.walk = some w → w.phase = .suspended) ∧ s.log.anchorOp = .idle := by
  cases hw : s.grp.walk <;> simp [State.drainOver, hw, mem_allSlots, or_iff_not_imp_left, and_assoc]

/-- The drain anchor, by whether a slot is still taken (R127). -/
theorem launchDrainAnchor_eq (s : State) :
    let a : Anchor := ⟨(s.log.newest.map (·.serial)).getD 0 + 1, s.log.gen,
      if ∀ i, (s.slot i).state = .free then .clean else .active, s.geo.exponent, s.log.volatileTail⟩
    s.launchDrainAnchor = { s with
      log := { s.log with anchorOp := .writing s.nextCopy a .drain }
      mport := { s.mport with logQ := s.mport.logQ ++
        [⟨.anchorWrite, true, s.geo.anchorAddr s.nextCopy, 64, spanMask 96 0 64, a.bytes⟩] } } := by
  simp only [State.launchDrainAnchor, slotsInUse_eq_zero_iff]
  rfl

/-- HALTED, with the resume delay under AUTO (R128, R130). -/
theorem enterHalted_eq (s : State) : s.enterHalted = { s with
    bridge := .halted
    resumeAt := if s.link.policy.resumePolicy = .auto ∧ s.pfwAsserted = false
      then some (s.now + s.link.policy.resumeDelay * 1000) else s.resumeAt } := by
  by_cases h : s.link.policy.resumePolicy = .auto ∧ s.pfwAsserted = false
  · rw [if_pos h]
    exact if_pos h
  · rw [if_neg h]
    exact if_neg h

/-- Settles O52. -/
theorem drainEnds : Obligations.DrainEnds := by
  intro s hp drained a
  refine ⟨fun hn => (live_of_power hp _).trans ?_, fun hd => (live_of_power hp _).trans ?_, fun t c b hwf ha hop => ?_⟩
  · exact congrArg _ (if_neg ((drainOver_iff s).not.2 hn))
  · exact congrArg _ ((if_pos ((drainOver_iff s).2 hd)).trans (launchDrainAnchor_eq s))
  · set m := s.withAnswer t (.done [])
    have had := anchorAdopted_adoptAnchor m c b
    refine ⟨m, m.adoptAnchor c b, m.drainDone c b, ?_, answerTaken_withAnswer fun _ => hwf, had, fun hb => ?_,
      fun hb => if_pos hb⟩
    · rw [exec_drainDone hp ha hop rfl, anchorAnswered_drain (s := m) hop]
    · set n := m.adoptAnchor c b
      have hslots : n.slotsInUse = s.slotsInUse := slotsInUse_congr (congrArg (fun x : State => x.grp.slots) had.eq :)
      have hresume : (if n.link.policy.resumePolicy = .auto ∧ n.pfwAsserted = false
          then some (n.now + n.link.policy.resumeDelay * 1000) else n.resumeAt) =
          if s.link.policy.resumePolicy = .auto ∧ s.pfwAsserted = false
          then some (s.now + s.link.policy.resumeDelay * 1000) else s.resumeAt := by
        rw [had.eq]
        rfl
      have hended : m.drainDone c b =
          (n.post .drainDone Key.zero (.anchorState b.state) n.slotsInUse b.tail).enterHalted := if_neg fun hne => hne hb
      rw [hended, enterHalted_eq, ← hslots]
      exact congrArg (fun r => ({ n with
        bridge := .halted
        notes := (n.post .drainDone Key.zero (.anchorState b.state) n.slotsInUse b.tail).notes
        resumeAt := r } : State)) hresume

/-! ### The way into RUNNING -/

/-- From a state that goes on to RUNNING the bridge is RUNNING, or with PFW asserted DRAINING from there (R123). -/
theorem enterRunning_cases {u begun : State} {pfw : Bool}
    (h : ∃ t : State, u = t.enterRunning ∧ begun = { t with bridge := .running } ∧ pfw = t.pfwAsserted) :
    (pfw = false → u = begun) ∧ (pfw = true → DrainEntered begun u) := by
  obtain ⟨t, rfl, rfl, rfl⟩ := h
  refine ⟨fun h => if_neg (Bool.eq_false_iff.1 h), fun h => ?_⟩
  have hdrains : t.enterRunning = ({ t with bridge := .running } : State).enterDraining := if_pos h
  rw [hdrains]
  exact drainEntered_enterDraining _

/-! ### START FRESH -/

/-- A START FRESH that fails: answered MEM_ERROR, its requests without a requester (R137; log 27). -/
theorem failFresh_eq (s : State) : s.failFresh = { s with
    start := none
    log := { s.log with anchorOp := .idle }
    mport := s.mport.stale
    link := { s.link with state := .idle, buffer := .answer .memError [] } } := by
  simp only [State.failFresh, State.forgetRollback, State.disown, disown_ofRollback, tagDisown_ofRollback, MPort.stale,
    State.answerLink]

/-- Settles O57. -/
theorem freshAnchorAnswered : Obligations.FreshAnchorAnswered := by
  intro s t raced landed c a hp hwf ha
  refine ⟨fun hop => ⟨s.withAnswer t (.done raced), answerTaken_withAnswer fun _ => hwf, ?_⟩, fun hop => ?_,
    fun use hu hop => ?_⟩
  · refine (exec_freshAnchorAnswered hp ha hop _ (.inl rfl)).trans ?_
    exact congrArg _ (anchorAnswered_freshFirst hop)
  · set m := s.withAnswer t (.done raced)
    refine ⟨m, m.freshDone c a, ?_, answerTaken_withAnswer fun _ => hwf, ?_⟩
    · refine (exec_freshAnchorAnswered hp ha hop _ (.inr rfl)).trans ?_
      exact congrArg _ (anchorAnswered_freshSecond (s := m) hop)
    · exact enterRunning_cases ⟨_, rfl, rfl, rfl⟩
  · set m := s.withAnswer t (.error landed)
    refine ⟨m, answerTaken_withAnswer fun _ => hwf, (exec_freshAnchorAnswered hp ha hop _ hu).trans ?_⟩
    exact congrArg _ ((anchorAnswered_fresh_failed (s := m) hop hu).trans (failFresh_eq _))

/-! ### The end of a recovery -/

/-- What R142 asks of the state before the final anchor. -/
theorem recoveryOver_iff (s : State) (o : StartOp) : s.recoveryOver o = true ↔
    s.bridge = .recovering ∧ o.phase = .rollback ∧ o.stopping = false ∧ (∀ i, (s.slot i).state = .free) ∧
      s.grp.queue = [] ∧ s.grp.walk = none ∧ s.log.window = [] ∧ s.log.due = [] := by
  simp [State.recoveryOver, slotsInUse_eq_zero_iff, and_assoc]

theorem recoveryFinalAnchor_of_start {s : State} {o : StartOp} (hp : s.power = true) (ho : s.start = some o) :
    exec .recoveryFinalAnchor s = .next (if s.recoveryOver o then s.finalAnchor o else s) := by
  change execRecoveryFinalAnchor s = _
  delta execRecoveryFinalAnchor
  rw [live_of_power hp, ho]

/-- Settles O59. -/
theorem recoveryEnds : Obligations.RecoveryEnds := by
  intro s o hp ho finished a
  refine ⟨fun hn => ?_, fun hf => ?_, fun t c b raced landed hwf ha hop => ⟨?_, ?_⟩⟩
  · rw [recoveryFinalAnchor_of_start hp ho, if_neg ((recoveryOver_iff s o).not.2 hn)]
  · rw [recoveryFinalAnchor_of_start hp ho, if_pos ((recoveryOver_iff s o).2 hf)]
    rfl
  · set m := s.withAnswer t (.done raced)
    have had := anchorAdopted_adoptAnchor m c b
    refine ⟨m, m.adoptAnchor c b, m.recovered c b, ?_, answerTaken_withAnswer fun _ => hwf, had, ?_⟩
    · refine (exec_recoveryDone hp ha hop _ rfl).trans ?_
      exact congrArg _ (anchorAnswered_recovery (s := m) hop)
    · have hpfw : (m.adoptAnchor c b).pfwAsserted = s.pfwAsserted := by
        rw [had.eq]
        rfl
      have hstart : m.start.getD (StartOp.begin .recover) = o := congrArg (fun x : Option StartOp => x.getD _) ho
      rw [← hpfw, ← hstart]
      exact enterRunning_cases ⟨_, rfl, rfl, rfl⟩
  · set m := s.withAnswer t (.error landed)
    refine ⟨m, answerTaken_withAnswer fun _ => hwf, (exec_recoveryDone hp ha hop _ rfl).trans ?_⟩
    exact congrArg _ ((anchorAnswered_recovery_failed (s := m) hop).trans (failRecovery_eq _ _ _))

end Sys2Proof.Machine
end

section
/-! The anchor READs of START: the bytes of an anchor, the tests, the choice, and what follows each mode (R19, R136 to
R138). -/

namespace Sys2Proof.Machine

/-! ### The layout of an anchor -/

/-- An anchor's fields at their offsets, with zeros behind them (R168). -/
theorem anchor_layout {a : Anchor} (hserial : a.serial < 2 ^ 64) (hgen : a.gen < 2 ^ 32) (hexp : a.exponent < 256)
    (htail : a.tail < 2 ^ 64) :
    field a.bytes 4 4 = 0x4A414E43 ∧ field a.bytes 8 8 = a.serial ∧ field a.bytes 16 4 = a.gen ∧
      field a.bytes 20 1 = (if a.state = .clean then 1 else 2) ∧ field a.bytes 21 1 = a.exponent ∧
      field a.bytes 22 2 = 0 ∧ field a.bytes 24 8 = a.tail := by
  have hstate : a.state.code = if a.state = .clean then 1 else 2 := by cases a.state <;> rfl
  have hcode : (if a.state = .clean then 1 else 2) < 256 := by split <;> decide
  norm_num at hserial hgen htail
  simp [Anchor.bytes, Anchor.body, padTo, Config.anchorSignature, field_leBytes_append, field_leBytes_append_of_le,
    hstate, hcode, Nat.mod_eq_of_lt hserial, Nat.mod_eq_of_lt hgen, Nat.mod_eq_of_lt hexp, Nat.mod_eq_of_lt htail]

theorem Anchor.body_length (a : Anchor) : a.body.length = 60 := by simp [Anchor.body, padTo]

theorem Anchor.bytes_length (a : Anchor) : a.bytes.length = 64 := by
  rw [Anchor.bytes, List.length_append, leBytes_length, a.body_length]

theorem Anchor.bytes_zeros (a : Anchor) : (a.bytes.drop 32).all (fun x => decide (x = 0)) = true := by
  have h : a.bytes.drop 32 = List.replicate 32 0 := by
    simp [Anchor.bytes, Anchor.body, padTo, List.drop_append, List.drop_eq_nil_of_le]
  rw [h]
  decide

theorem Anchor.bytes_drop (a : Anchor) : a.bytes.drop 4 = a.body := drop_four _ _

/-- The check word stored is the one over the bytes behind it (R19). -/
theorem Anchor.bytes_check (a : Anchor) : field a.bytes 0 4 = crc32c (a.bytes.drop 4) := by
  rw [a.bytes_drop, Anchor.bytes, field_leBytes_append]
  exact Nat.mod_eq_of_lt (crc32c_lt _)

/-! ### The tests of a copy and the choice (R19, R136) -/

/-- What a copy passes to be valid (R19). -/
def AnchorValid (b : List Byte) : Prop :=
  crc32c ((b.drop 4).take 60) = field b 0 4 ∧ field b 4 4 = 0x4A414E43 ∧ field b 16 4 ≠ 0 ∧
    (field b 20 1 = 1 ∨ field b 20 1 = 2) ∧ 7 ≤ field b 21 1 ∧ field b 21 1 ≤ 21

theorem ofBytes_of_valid {b : List Byte} (h : AnchorValid b) : CopyRead.ofBytes b =
    .valid ⟨field b 8 8, field b 16 4, if field b 20 1 = 1 then .clean else .active, field b 21 1, field b 24 8⟩ := by
  have hp : Anchor.parse b = some _ := if_pos h
  rw [CopyRead.ofBytes, hp]

theorem ofBytes_of_not_valid {b : List Byte} (h : ¬ AnchorValid b) : CopyRead.ofBytes b = .invalid := by
  have hp : Anchor.parse b = none := if_neg h
  rw [CopyRead.ofBytes, hp]

/-- An anchor reads back as it was built. -/
theorem ofBytes_bytes {a : Anchor} (hserial : a.serial < 2 ^ 64) (hgen : a.gen < 2 ^ 32) (hexp : a.exponent < 256)
    (htail : a.tail < 2 ^ 64) (hg : a.gen ≠ 0) (hlow : 7 ≤ a.exponent) (hhigh : a.exponent ≤ 21) :
    CopyRead.ofBytes a.bytes = .valid a := by
  obtain ⟨h4, h8, h16, h20, h21, -, h24⟩ := anchor_layout hserial hgen hexp htail
  have hstate : (if field a.bytes 20 1 = 1 then AnchorState.clean else .active) = a.state := by
    rw [h20]
    cases a.state <;> rfl
  have hvalid : AnchorValid a.bytes := by
    refine ⟨?_, h4, h16 ▸ hg, ?_, h21 ▸ hlow, h21 ▸ hhigh⟩
    · rw [a.bytes_check, a.bytes_drop, List.take_of_length_le a.body_length.le]
    · rw [h20]
      cases a.state <;> decide
  rw [ofBytes_of_valid hvalid, hstate, h8, h16, h21, h24]

/-- The valid copy with the higher serial, A when they are equal (R136). -/
theorem chooseAnchor_cases (x y : CopyRead) :
    (∀ a b, x = .valid a → y = .valid b →
      (b.serial ≤ a.serial → chooseAnchor x y = some (.a, a)) ∧ (a.serial < b.serial → chooseAnchor x y = some (.b, b))) ∧
    (∀ a, x = .valid a → (∀ b, y ≠ .valid b) → chooseAnchor x y = some (.a, a)) ∧
    (∀ b, (∀ a, x ≠ .valid a) → y = .valid b → chooseAnchor x y = some (.b, b)) ∧
    ((∀ a, x ≠ .valid a) → (∀ b, y ≠ .valid b) → chooseAnchor x y = none) := by
  refine ⟨?_, ?_, ?_, ?_⟩
  · rintro a b rfl rfl
    exact ⟨fun h => if_neg (Nat.not_lt.2 h), fun h => if_pos h⟩
  · rintro a rfl hy
    cases y <;> simp_all [chooseAnchor]
  · rintro b hx rfl
    cases x <;> simp_all [chooseAnchor]
  · intro hx hy
    cases x <;> cases y <;> simp_all [chooseAnchor]

/-! ### What follows the second READ (R137, R138) -/

theorem note_eq (o : StartOp) (c : Copy) (r : CopyRead) :
    o.note c r = if c = .a then { o with copyA := r } else { o with copyB := r } := by
  cases c <;> rfl

/-- FRESH writes its first copy to the copy without the chosen anchor, or to B (R137). -/
theorem freshBegin_eq (s : State) (o : StartOp) :
    let top := max o.copyA.gen o.copyB.gen
    let copy := ((chooseAnchor o.copyA o.copyB).map fun p => p.1.other).getD .b
    let a : Anchor := ⟨1, if 2 ^ 32 ≤ top + 1 then 1 else top + 1, .clean, s.geo.exponent, 0⟩
    s.freshBegin o = { s with
      start := some { o with phase := .freshWrites, topGen := top }
      log := { s.log with anchorOp := .writing copy a .freshFirst }
      mport := { s.mport with logQ := s.mport.logQ ++
        [⟨.anchorWrite, true, s.geo.anchorAddr copy, 64, spanMask 96 0 64, a.bytes⟩] } } := by
  unfold State.freshBegin
  cases chooseAnchor o.copyA o.copyB <;> rfl

theorem recoverJudge_of_none {s : State} {o : StartOp} (h : chooseAnchor o.copyA o.copyB = none) :
    s.recoverJudge o = s.backInGated .noAnchor 0 := by
  simp only [State.recoverJudge, h, failRecovery_eq]

theorem recoverJudge_of_exponent {s : State} {o : StartOp} {k : Copy} {a : Anchor}
    (h : chooseAnchor o.copyA o.copyB = some (k, a)) (he : a.exponent ≠ s.geo.exponent) :
    s.recoverJudge o = s.backInGated .geometry 0 := by
  simp only [State.recoverJudge, h, if_pos he, failRecovery_eq]

/-- RECOVER takes tail and generation from the chosen anchor: what it builds, and its scan READ when the anchor is ACTIVE
(R138). -/
theorem recoverJudge_of_chosen {s : State} {o : StartOp} {k : Copy} {a : Anchor}
    (h : chooseAnchor o.copyA o.copyB = some (k, a)) (he : a.exponent = s.geo.exponent) :
    let u := s.recoverJudge o
    u.IsVolatileTail u.log.volatileTail ∧ u = { s with
      start := some { o with
        phase := if a.state = .clean then .rollback else .scan
        topGen := max o.copyA.gen o.copyB.gen
        tail := a.tail
        scanPos := a.tail }
      log := { s.log with
        head := a.tail
        volatileTail := u.log.volatileTail
        persistedTail := a.tail
        gen := a.gen
        newest := some ⟨k, a.serial, a.state, a.tail⟩ }
      mport := { s.mport with rollbackQ := s.mport.rollbackQ ++ if a.state = .clean then [] else
        [⟨.scanRead, false, s.geo.slotAddr a.tail, 32 * min 3 (s.geo.slotsLeft a.tail), 0, []⟩] } } := by
  unfold State.recoverJudge
  rw [h]
  dsimp only
  rw [if_neg (not_not.2 he)]
  by_cases hc : a.state = .clean
  · simp only [hc, if_true, List.append_nil]
    exact ⟨isVolatileTail_lowestFirst _, rfl⟩
  · simp only [hc, if_false]
    exact ⟨isVolatileTail_lowestFirst _, rfl⟩

section
variable {s : State} {o : StartOp} (ho : s.start = some o)
include ho

theorem anchorReadDone_stopping (h : o.stopping = true) (c : Copy) (bytes : List Byte) :
    s.anchorReadDone c bytes = s.stopCheck := by
  simp [State.anchorReadDone, ho, h]

theorem anchorReadDone_first (h : o.stopping = false) {c : Copy} {bytes : List Byte} {o' : StartOp}
    (ho' : o.note c (CopyRead.ofBytes bytes) = o') (hb : ¬ (o'.copyA ≠ .pending ∧ o'.copyB ≠ .pending)) :
    s.anchorReadDone c bytes = { s with start := some o' } := by
  have hpending : o'.copyA = .pending ∨ o'.copyB = .pending := by tauto
  simp [State.anchorReadDone, ho, h, ho', hpending]

theorem anchorReadDone_second (h : o.stopping = false) {c : Copy} {bytes : List Byte} {o' : StartOp}
    (ho' : o.note c (CopyRead.ofBytes bytes) = o') (hb : o'.copyA ≠ .pending ∧ o'.copyB ≠ .pending) :
    (o.mode = .fresh → s.anchorReadDone c bytes = s.freshBegin o') ∧
      (o.mode = .recover → s.anchorReadDone c bytes = s.recoverJudge o') := by
  obtain ⟨hA, hB⟩ := hb
  constructor <;> intro hm <;> simp [State.anchorReadDone, ho, h, ho', hA, hB, hm]

theorem anchorReadFailed_cases : (o.mode = .fresh → s.anchorReadFailed = s.failFresh) ∧
    (o.mode = .recover → s.anchorReadFailed = s.backInGated .memError 0) := by
  constructor <;> intro hm <;> simp [State.anchorReadFailed, ho, hm, failRecovery_eq]

end

/-- Settles O56. -/
theorem anchorReadAnswered : Obligations.AnchorReadAnswered := by
  refine ⟨?_, fun a hserial hgen hexp htail => ?_, fun b => ⟨ofBytes_of_not_valid, ofBytes_of_valid⟩, chooseAnchor_cases⟩
  · intro s t raced c o hp ha hread ho found o' both chosen top run failsWith
    have hnote : o.note c found = o' := note_eq o c found
    set m := s.withAnswer t (.done raced)
    obtain ⟨htaken, hmem⟩ : AnswerTaken s m t (.done raced) ∧ m.mem = s.mem := answerTaken_withAnswer_read _ hread
    have hrun : run = .next (m.anchorReadDone c (s.readData t raced)) := exec_anchorReadAnswered hp (.done raced) ha
    have hstart : m.start = some o := ho
    refine ⟨fun hs => ⟨m, _, hrun, htaken, hmem, ?_⟩, fun hs hn => ⟨m, htaken, hmem, ?_⟩,
      fun hs hb hf => ⟨m, htaken, hmem, ?_⟩, fun hs hb hr => ?_, fun x => ?_⟩
    · rw [anchorReadDone_stopping hstart hs]
      exact stopPointMet_stopCheck m
    · rw [hrun, anchorReadDone_first hstart hs hnote hn]
    · rw [hrun, (anchorReadDone_second hstart hs hnote hb).1 hf, freshBegin_eq]
      rfl
    · rw [(anchorReadDone_second hstart hs hnote hb).2 hr] at hrun
      refine ⟨fun hnone => ⟨m, htaken, hmem, ?_⟩, fun k a hchosen => ⟨fun hne => ⟨m, htaken, hmem, ?_⟩, fun he => ?_⟩⟩
      · exact hrun.trans (congrArg _ (recoverJudge_of_none hnone))
      · exact hrun.trans (congrArg _ (recoverJudge_of_exponent hchosen hne))
      · obtain ⟨htail, hu⟩ := recoverJudge_of_chosen (s := m) hchosen he
        exact ⟨m, _, hrun, htaken, hmem, htail, hu⟩
    · set w := s.withAnswer t (.error x)
      have hfailed : exec (.anchorReadAnswered t (.error x)) s = .next w.anchorReadFailed :=
        exec_anchorReadAnswered hp (.error x) ha
      obtain ⟨htaken, hmem⟩ : AnswerTaken s w t (.error x) ∧ w.mem = s.mem := answerTaken_withAnswer_read _ hread
      obtain ⟨hfresh, hrecover⟩ := anchorReadFailed_cases (s := w) ho
      refine ⟨fun hf => ⟨w, htaken, hmem, ?_⟩, fun hr => ⟨w, htaken, hmem, ?_⟩⟩
      · rw [hfailed, hfresh hf, failFresh_eq]
        rfl
      · rw [hfailed, hrecover hr]
  · obtain ⟨h4, h8, h16, h20, h21, h22, h24⟩ := anchor_layout hserial hgen hexp htail
    exact ⟨a.bytes_length, a.bytes_check, h4, h8, h16, h20, h21, h22, h24, a.bytes_zeros,
      ofBytes_bytes hserial hgen hexp htail⟩

end Sys2Proof.Machine
end

section
/-! The scan of a recovery: the tests of a record, the rebuild of the group table, and the scan's end (R139 to R141,
R143). -/

namespace Sys2Proof.Machine

/-! ### The tests of a record (R139) -/

/-- What a record read at scan position `p` passes to be valid (R139). -/
def State.ScanValid (s : State) (o : StartOp) (p : Nat) (bytes : List Byte) : Prop :=
  let h := RawHeader.parse bytes
  (((h.kind = 1 ∨ h.kind = 2) ∧ 1 ≤ h.count ∧ h.count ≤ 64 ∧ h.first + h.count ≤ 64 ∧
      h.slots = (if h.count ≤ 32 then 2 else 3)) ∨
    ((h.kind = 3 ∨ h.kind = 4) ∧ h.slots = 1) ∨ (h.kind = 5 ∧ h.slots = s.geo.slotsLeft p)) ∧
  h.checkPasses bytes = true ∧ h.gen = s.log.gen ∧ h.pos = p % 2 ^ 64 ∧ p + h.slots ≤ o.tail + s.geo.slots

theorem scanValid_iff (s : State) (o : StartOp) (p : Nat) (bytes : List Byte) :
    s.scanValid o p bytes = true ↔ s.ScanValid o p bytes := by
  set h := RawHeader.parse bytes
  have hkind : (if h.kind = RecKind.before.code ∨ h.kind = RecKind.void.code then h.spanFits
      else if h.kind = RecKind.commit.code ∨ h.kind = RecKind.rollback.code then decide (h.slots = 1)
      else if h.kind = RecKind.pad.code then decide (h.slots = s.geo.slotsLeft p) else false) = true ↔
      ((h.kind = 1 ∨ h.kind = 2) ∧ 1 ≤ h.count ∧ h.count ≤ 64 ∧ h.first + h.count ≤ 64 ∧
        h.slots = (if h.count ≤ 32 then 2 else 3)) ∨
      ((h.kind = 3 ∨ h.kind = 4) ∧ h.slots = 1) ∨ (h.kind = 5 ∧ h.slots = s.geo.slotsLeft p) := by
    change (if h.kind = 1 ∨ h.kind = 2 then _ else if h.kind = 3 ∨ h.kind = 4 then _ else if h.kind = 5 then _
      else _) = true ↔ _
    rw [← spanFits_iff]
    by_cases h12 : h.kind = 1 ∨ h.kind = 2
    · have hother : ¬ (h.kind = 3 ∨ h.kind = 4) ∧ h.kind ≠ 5 := by omega
      simp [h12, hother]
    · by_cases h34 : h.kind = 3 ∨ h.kind = 4
      · have hother : h.kind ≠ 5 := by omega
        simp [h12, h34, hother]
      · by_cases h5 : h.kind = 5
        · simp [h5]
        · simp [h12, h34, h5]
  unfold State.scanValid State.ScanValid
  simp only [Bool.and_eq_true, decide_eq_true_eq, and_assoc]
  rw [hkind]

/-! ### The rebuild (R140) -/

/-- The state with its group slots replaced. -/
def State.withSlots (s : State) (slots : Vector GroupSlot 4) : State :=
  { s with grp := { s.grp with slots := slots } }

theorem allSlots_find_lowest {p : SlotNo → Bool} {i : SlotNo} (hi : p i = true) (hlow : ∀ j, j < i → p j = false) :
    allSlots.find? p = some i := by
  have hall : allSlots = List.finRange 4 := by decide
  rw [hall, List.find?_eq_some_iff_getElem]
  refine ⟨hi, i.val, by simp, by simp, fun j hj => ?_⟩
  simpa using hlow ⟨j, hj.trans i.isLt⟩ hj

theorem freeSlot_of_lowest {s : State} {i : SlotNo} (hi : (s.slot i).state = .free)
    (hlow : ∀ j, j < i → (s.slot j).state ≠ .free) : s.freeSlot = some i :=
  allSlots_find_lowest (decide_eq_true hi) fun j hj => decide_eq_false (hlow j hj)

theorem freeSlot_of_full {s : State} (h : ∀ i, (s.slot i).state ≠ .free) : s.freeSlot = none :=
  List.find?_eq_none.2 fun i _ => by simpa using h i

section
variable {s : State} {o : StartOp} {k : Key} {p back records : Nat}

theorem rebuildBefore_takes {i : SlotNo} (hf : s.findSlot k = none) (hfree : s.freeSlot = some i) :
    s.rebuildBefore o k p 0 = some (s.withSlots
      (s.grp.slots.set i ⟨.opened, k, p, p, 1, 0, 0, none, false, none, none, none⟩)) := by
  delta State.rebuildBefore
  rw [hf, hfree]
  rfl

theorem rebuildBefore_full (hf : s.findSlot k = none) (hfree : s.freeSlot = none) :
    s.rebuildBefore o k p 0 = none := by
  delta State.rebuildBefore
  rw [hf, hfree]
  rfl

theorem rebuildBefore_passed (hf : s.findSlot k = none) (hb : back ≠ 0) :
    s.rebuildBefore o k p back = if p < o.tail + back then some s else none := by
  delta State.rebuildBefore
  rw [hf]
  exact if_neg hb

theorem rebuildBefore_extends {i : SlotNo} (hf : s.findSlot k = some i) :
    s.rebuildBefore o k p back = if p = (s.slot i).newest + back then some (s.withSlots
      (s.grp.slots.set i { s.slot i with newest := p, records := (s.slot i).records + 1 })) else none := by
  delta State.rebuildBefore
  rw [hf]
  rfl

theorem rebuildClose_passed (hf : s.findSlot k = none) :
    s.rebuildClose o k p back records = if p < o.tail + back then some s else none := by
  delta State.rebuildClose
  rw [hf]

theorem rebuildClose_frees {i : SlotNo} (hf : s.findSlot k = some i) :
    s.rebuildClose o k p back records =
      if p = (s.slot i).first + back ∧ records = min (s.slot i).records 65535 then
        some (s.withSlots (s.grp.slots.set i GroupSlot.free)) else none := by
  delta State.rebuildClose
  rw [hf]
  rfl

theorem rebuild_before {h : RawHeader} (hk : h.kind = 1 ∨ h.kind = 2) :
    s.rebuild o p h = s.rebuildBefore o (Key.ofByte h.keyByte) p h.back := if_pos hk

theorem rebuild_close {h : RawHeader} (hk : h.kind = 3 ∨ h.kind = 4) :
    s.rebuild o p h = s.rebuildClose o (Key.ofByte h.keyByte) p h.back h.records := by
  rcases hk with hk | hk <;> simp [State.rebuild, RecKind.code, hk]

theorem rebuild_pad {h : RawHeader} (hk : h.kind = 5) : s.rebuild o p h = some s := by
  simp [State.rebuild, RecKind.code, hk]

end

/-! ### The end of the scan (R141, R143) -/

theorem faultRecovery_cases (s : State) (d : Detail) (pos : Nat) :
    EnteredFaulted s (s.faultRecovery d pos) .recovery pos ∧ (s.faultRecovery d pos).notes =
      ((s.post .recoveryFailed Key.zero d 0 pos).post .logFaulted Key.zero .recovery 0 pos).notes := by
  obtain ⟨hfaulted, hnotes⟩ := enterFaulted_cases (s.post .recoveryFailed Key.zero d 0 pos) .recovery pos
  exact ⟨hfaulted.of_post, hnotes⟩

/-- The fault entry ends a START, whatever stood in it. -/
theorem EnteredFaulted.of_start {s t : State} {o : Option StartOp} {d : Detail} {pos : Nat}
    (h : EnteredFaulted { s with start := o } t d pos) : EnteredFaulted s t d pos := by
  obtain ⟨h1, h2, h3, h4, h5, h6, h7, h8, h9, h10, h11, h12, h13, h14⟩ := h
  exact ⟨h1, h2, h3, h4, h5, h6, h7, h8, h9, h10, h11, h12, h13, h14⟩

/-- The slots of an order join the rollback queue in it, with cause RECOVERY (R141). -/
theorem foldl_recoverSlot (order : List SlotNo) (hn : order.Nodup) (s : State) :
    let u := order.foldl State.recoverSlot s
    (∀ i ∈ order, u.slot i = { s.slot i with state := .rollbackWait, cause := some .recovery }) ∧
      (∀ i, i ∉ order → u.slot i = s.slot i) ∧
      u = { s with grp := { s.grp with slots := u.grp.slots, queue := s.grp.queue ++ order } } := by
  induction order generalizing s with
  | nil => simp
  | cons j order ih =>
    obtain ⟨hj, hn⟩ := List.nodup_cons.1 hn
    obtain ⟨hin, hout, heq⟩ := ih hn (s.recoverSlot j)
    have hself : (s.recoverSlot j).slot j = { s.slot j with state := .rollbackWait, cause := some .recovery } :=
      slot_of_set_self rfl
    have hne : ∀ i, i ≠ j → (s.recoverSlot j).slot i = s.slot i := fun i hi => slot_of_set_ne rfl hi
    refine ⟨fun i hi => ?_, fun i hi => ?_, ?_⟩
    · rcases List.mem_cons.1 hi with rfl | hi
      · exact (hout i hj).trans hself
      · rw [← hne i (fun e => hj (e ▸ hi))]
        exact hin i hi
    · obtain ⟨hij, hi⟩ := not_or.1 (List.mem_cons.not.1 hi)
      exact (hout i hi).trans (hne i hij)
    · rw [List.append_cons]
      exact heq

theorem openSlots_perm (s : State) :
    s.openSlots.Perm (allSlots.filter fun i => decide ((s.slot i).state = .opened)) := List.perm_insertionSort _ _

theorem openSlots_sorted (s : State) : s.openSlots.Pairwise fun i j => (s.slot i).first ≤ (s.slot j).first := by
  have : Std.Total fun i j : SlotNo => (s.slot i).first ≤ (s.slot j).first := ⟨fun _ _ => Nat.le_total _ _⟩
  have : IsTrans SlotNo fun i j => (s.slot i).first ≤ (s.slot j).first := ⟨fun _ _ _ => Nat.le_trans⟩
  exact List.pairwise_insertionSort _ _

theorem openSlots_nodup (s : State) : s.openSlots.Nodup :=
  (openSlots_perm s).nodup_iff.2 (List.Nodup.filter _ (by decide))

/-- The scan's end, by whether the free slots are enough for the closing records of the OPEN slots. -/
theorem scanEnd_cases (s : State) (o : StartOp) :
    let w : State := ({ s with log := { s.log with head := o.scanPos } } : State).recomputeTail
    let opened := allSlots.filter fun i => decide ((s.slot i).state = .opened)
    (w.freeSlots < opened.length → s.scanEnd o = w.faultRecovery .corrupt o.scanPos) ∧
    (opened.length ≤ w.freeSlots → ∃ order, order.Perm opened ∧
      (order.Pairwise fun i j => (s.slot i).first ≤ (s.slot j).first) ∧
      (∀ i ∈ opened, (s.scanEnd o).slot i = { s.slot i with state := .rollbackWait, cause := some .recovery }) ∧
      (∀ i, i ∉ opened → (s.scanEnd o).slot i = s.slot i) ∧
      s.scanEnd o = { w with
        start := some { o with phase := .rollback, scanned := o.scanPos - o.tail }
        grp := { s.grp with slots := (s.scanEnd o).grp.slots, queue := s.grp.queue ++ order } }) := by
  intro w opened
  have hperm : w.openSlots.Perm opened := openSlots_perm w
  refine ⟨fun h => if_pos (hperm.length_eq ▸ h), fun h => ?_⟩
  have hend : s.scanEnd o = w.openSlots.foldl State.recoverSlot
      { w with start := some { o with phase := .rollback, scanned := o.scanPos - o.tail } } :=
    if_neg (Nat.not_lt.2 (hperm.length_eq ▸ h))
  obtain ⟨hin, hout, heq⟩ := foldl_recoverSlot w.openSlots (openSlots_nodup w)
    { w with start := some { o with phase := .rollback, scanned := o.scanPos - o.tail } }
  rw [← hend] at hin hout heq
  exact ⟨w.openSlots, hperm, openSlots_sorted w, fun i hi => hin i (hperm.mem_iff.2 hi),
    fun i hi => hout i (hperm.mem_iff.not.2 hi), heq⟩

/-! ### The answer of a scan READ -/

section
variable {s : State} {o : StartOp} (ho : s.start = some o)
include ho

theorem scanFailed_of_start : s.scanFailed = s.backInGated .memError o.scanPos := by
  simp only [State.scanFailed, ho, failRecovery_eq]

variable {bytes : List Byte}

theorem scanDone_stopping (hs : o.stopping = true) : s.scanDone bytes = s.stopCheck := by
  delta State.scanDone
  rw [ho]
  exact if_pos hs

variable (hs : o.stopping = false)
include hs

theorem scanDone_ended (hv : ¬ s.ScanValid o o.scanPos bytes) : s.scanDone bytes = s.scanEnd o := by
  delta State.scanDone
  rw [ho]
  exact (if_neg (Bool.eq_false_iff.1 hs)).trans (if_neg ((scanValid_iff s o _ _).not.2 hv))

theorem scanDone_corrupt (hv : s.ScanValid o o.scanPos bytes)
    (hr : s.rebuild o o.scanPos (RawHeader.parse bytes) = none) :
    s.scanDone bytes = s.faultRecovery .corrupt o.scanPos := by
  delta State.scanDone
  rw [ho]
  refine ((if_neg (Bool.eq_false_iff.1 hs)).trans (if_pos ((scanValid_iff s o _ _).2 hv))).trans ?_
  dsimp only
  rw [hr]

/-- A record that has its effect: the scan position moves past it, and the next record is read or the scan ends (R139,
R140). -/
theorem scanDone_rebuilt (hv : s.ScanValid o o.scanPos bytes) {t : State}
    (hr : s.rebuild o o.scanPos (RawHeader.parse bytes) = some t) :
    let next := o.scanPos + (RawHeader.parse bytes).slots
    let u := ({ t with start := some { o with scanPos := next } } : State).recomputeTail
    (next < o.tail + s.geo.slots → s.scanDone bytes = u.readScan next) ∧
      (next = o.tail + s.geo.slots → s.scanDone bytes = u.scanEnd { o with scanPos := next }) := by
  intro next u
  have hdone : s.scanDone bytes = if o.tail + s.geo.slots ≤ next then u.scanEnd { o with scanPos := next }
      else u.readScan next := by
    delta State.scanDone
    rw [ho]
    refine ((if_neg (Bool.eq_false_iff.1 hs)).trans (if_pos ((scanValid_iff s o _ _).2 hv))).trans ?_
    dsimp only
    rw [hr]
  exact ⟨fun hn => hdone.trans (if_neg (Nat.not_le.2 hn)), fun hn => hdone.trans (if_pos hn.ge)⟩

end

theorem freeSlots_of_newest {s : State} {tail : Nat} (hn : s.log.newest ≠ none) (hg : s.log.geometry ≠ none)
    (ht : s.log.persistedTail = tail) : s.freeSlots = s.geo.slots - (s.log.head - tail) := by
  obtain ⟨g, hg⟩ := Option.ne_none_iff_exists'.1 hg
  rw [freeSlots_eq, if_neg hn, ht, State.ringSlots, State.geo, hg]
  rfl

theorem TagFreed.of_tags {s m u : State} {t : MTag} (h : TagFreed s m t) (he : u.mport.tags = m.mport.tags) :
    TagFreed s u t := by
  have htag : u.tag = m.tag := funext fun i => State.tag_congr he i
  unfold TagFreed at h ⊢
  rwa [htag]

/-- A READ answered DONE frees its tag and hands the bytes over; nothing else changes before its requester acts. -/
theorem exec_scanReadDone {s : State} {t : MTag} (hp : s.power = true) (ha : s.awaits t .scanRead)
    (hr : (s.tag t).req.write = false) (raced : List Byte) :
    ∃ tags, let m : State := { s with mport := { s.mport with tags := tags } }
      AnswerTaken s m t (.done raced) ∧
        exec (.scanReadAnswered t (.done raced)) s = .next (m.scanDone (s.readData t raced)) := by
  obtain ⟨htaken, hmem⟩ := answerTaken_withAnswer_read (.done raced) hr
  have heq : s.withAnswer t (.done raced) =
      { s with mport := { s.mport with tags := (s.withAnswer t (.done raced)).mport.tags } } := by
    have h := htaken.2.2
    rw [hmem] at h
    exact h
  refine ⟨_, heq ▸ htaken, ?_⟩
  rw [← heq]
  exact exec_scanReadAnswered hp (.done raced) ha

/-- Settles O58. -/
theorem scanReadAnswered : Obligations.ScanReadAnswered := by
  intro s t raced o hp ha hread ho hb bytes h p k next stop run valid corrupt endsAt rebuilds set
  obtain ⟨tags, htaken, hrun⟩ := exec_scanReadDone hp ha hread raced
  set m : State := { s with mport := { s.mport with tags := tags } }
  have hfreed : TagFreed s m t := htaken.1
  have hcorrupt : o.stopping = false → valid → m.rebuild o p h = none → corrupt s p := by
    intro hs hv hr
    rw [scanDone_corrupt (s := m) ho hs hv hr] at hrun
    obtain ⟨hfaulted, hnotes⟩ := faultRecovery_cases m .corrupt p
    exact ⟨m, _, hrun, htaken, rfl, hfaulted, hnotes⟩
  have hends : ∀ slots pos tail start,
      run = .next (({ m.withSlots slots with start := start, log := { m.log with volatileTail := tail } } : State).scanEnd
        { o with scanPos := pos }) → endsAt slots pos := by
    intro slots pos tail start hrun
    obtain ⟨hshort, henough⟩ := scanEnd_cases
      { m.withSlots slots with start := start, log := { m.log with volatileTail := tail } } { o with scanPos := pos }
    refine ⟨fun hn hg ht => freeSlots_of_newest hn hg ht, fun hlt => ?_, fun hle => ?_⟩
    · obtain ⟨hfaulted, hnotes⟩ := faultRecovery_cases _ .corrupt pos
      exact ⟨m, _, hrun.trans (congrArg _ (hshort hlt)), htaken, rfl, hfaulted.of_start (o := start), hnotes⟩
    · obtain ⟨order, hperm, hsorted, hin, hout, heq⟩ := henough hle
      have htags := congrArg (fun x : State => x.mport.tags) heq
      exact ⟨_, order, hrun, hfreed.of_tags htags, hperm, hsorted, hin, hout, by rw [htags]; exact heq⟩
  have hrebuilds : o.stopping = false → valid → ∀ slots, m.rebuild o p h = some (m.withSlots slots) → rebuilds slots := by
    intro hs hv slots hr
    obtain ⟨hmore, hlast⟩ := scanDone_rebuilt (s := m) ho hs hv hr
    refine ⟨fun hn => ?_, fun hn => ?_⟩
    · rw [hmore hn] at hrun
      exact ⟨_, hrun, hfreed.of_tags rfl, rfl, rfl⟩
    · rw [hlast hn] at hrun
      exact hends slots next _ _ hrun
  -- The rows of R140 whose one test tells a record that is passed over or has no effect from CORRUPT.
  have hpassed : o.stopping = false → valid →
      m.rebuild o p h = (if p < o.tail + h.back then some m else none) →
      (p < o.tail + h.back → rebuilds s.grp.slots) ∧ (o.tail + h.back ≤ p → corrupt s p) := fun hs hv hr =>
    ⟨fun hlt => hrebuilds hs hv s.grp.slots (hr.trans (if_pos hlt)),
      fun hge => hcorrupt hs hv (hr.trans (if_neg (Nat.not_lt.2 hge)))⟩
  refine ⟨fun hs => ?_, fun hs hv => ⟨fun hk => ⟨fun hf hzero => ⟨fun i hi hlow => ?_, fun hfull => ?_⟩, fun hf hback => ?_,
      fun i hf => ⟨fun hnew => ?_, fun hnew => ?_⟩⟩, fun hk => ⟨fun hf => ?_, ?_⟩, fun hk => ?_⟩,
    fun hs hv => ?_, fun x => ?_⟩
  · rw [scanDone_stopping (s := m) ho hs] at hrun
    exact ⟨m, _, hrun, htaken, rfl, stopPointMet_stopCheck m⟩
  · refine hrebuilds hs hv _ ((rebuild_before hk).trans ?_)
    rw [hzero]
    exact rebuildBefore_takes (s := m) hf (freeSlot_of_lowest (s := m) hi hlow)
  · refine hcorrupt hs hv ((rebuild_before hk).trans ?_)
    rw [hzero]
    exact rebuildBefore_full (s := m) hf (freeSlot_of_full (s := m) hfull)
  · exact hpassed hs hv ((rebuild_before hk).trans (rebuildBefore_passed (s := m) hf hback))
  · exact hrebuilds hs hv _ (((rebuild_before hk).trans (rebuildBefore_extends (s := m) hf)).trans (if_pos hnew))
  · exact hcorrupt hs hv (((rebuild_before hk).trans (rebuildBefore_extends (s := m) hf)).trans (if_neg hnew))
  · exact hpassed hs hv ((rebuild_close hk).trans (rebuildClose_passed (s := m) hf))
  · intro i hf closes
    have hr := (rebuild_close (o := o) (p := p) hk).trans (rebuildClose_frees (s := m) hf)
    exact ⟨fun hc => hrebuilds hs hv _ (hr.trans (if_pos hc)), fun hc => hcorrupt hs hv (hr.trans (if_neg hc))⟩
  · exact hrebuilds hs hv s.grp.slots (rebuild_pad hk)
  · rw [scanDone_ended (s := m) ho hs hv] at hrun
    exact hends s.grp.slots p s.log.volatileTail s.start hrun
  · obtain ⟨htaken, hmem⟩ := answerTaken_withAnswer_read (.error x) hread
    refine ⟨s.withAnswer t (.error x), ?_, htaken, hmem⟩
    refine (exec_scanReadAnswered hp (.error x) ha).trans (congrArg _ ?_)
    exact scanFailed_of_start ho

end Sys2Proof.Machine
end

section
/-! The configuration and who owns each part of it: no step changes a part but a command that owns it, sent by its own row
or in a frame, PFW's rows, and power events (R31, R32, R147, R153 to R155, R159). -/

namespace Sys2Proof.Machine

/-! ### The parts of the configuration -/

/-- The configuration, the straps, the PFW level and the timebase. -/
structure Setup where
  regions : Vector Region 8
  geometry : Option Geometry
  policy : Policy
  mask : BitVec 4
  lock : Fin 4
  straps : Fin 4
  pfwHigh : Bool
  now : Nat

def State.setup (s : State) : Setup :=
  ⟨s.regions, s.log.geometry, s.link.policy, s.notes.mask, s.link.lock, s.link.straps, s.pfwHigh, s.now⟩

theorem Steady.setup {s t : State} (h : Steady s t) : t.setup = s.setup := by
  unfold State.setup
  rw [h.regions, h.geometry, h.policy, h.mask, h.lock, h.straps, h.pfwHigh, h.now]

theorem Quiet.setup {s t : State} (h : Quiet s t) : t.setup = s.setup := h.steady.setup

/-- What the management command of a code may change: the part it owns. -/
inductive CodeChange (code : Nat) (x : Setup) : Setup → Prop
  | same : CodeChange code x x
  | regions (r : Vector Region 8) : code = 0x04 ∨ code = 0x05 → CodeChange code x { x with regions := r }
  | geometry (g : Option Geometry) : code = 0x03 → CodeChange code x { x with geometry := g }
  | policy (p : Policy) : code = 0x07 → CodeChange code x { x with policy := p }
  | mask (m : BitVec 4) : code = 0x10 → CodeChange code x { x with mask := m }
  | lock (l : Fin 4) : code = 0x13 → x.lock ≤ l → CodeChange code x { x with lock := l }

/-- A row that may change the configuration carries the command of a code: the command's own row, or a frame whose first
byte is the code. -/
inductive Carries : Instr → Nat → Prop
  | frame (a : BitVec 7) (bs : List Byte) {code : Nat} : field bs 0 1 = code → Carries (.commandFrame a bs) code
  | setLog (b k : Nat) : Carries (.setLog b k) 0x03
  | setRegion (p : RegionParams) : Carries (.setRegion p) 0x04
  | clearRegion (n : Nat) : Carries (.clearRegion n) 0x05
  | setPolicy (p : PolicyParams) : Carries (.setPolicy p) 0x07
  | setNoticeMask (n : Nat) : Carries (.setNoticeMask n) 0x10
  | setLock (n : Nat) : Carries (.setLock n) 0x13

/-- What a row may change of the configuration. -/
inductive RowChange : Instr → Setup → Setup → Prop
  | same {c : Instr} {x : Setup} : RowChange c x x
  | command {c : Instr} {code : Nat} {x y : Setup} : Carries c code → CodeChange code x y → RowChange c x y
  | pfw {c : Instr} {x : Setup} (b : Bool) : c = .pfwAssert ∨ c = .pfwDeassert → RowChange c x { x with pfwHigh := b }
  | powerOn {straps : Fin 4} {b : Bool} {landed : List (BitVec 96)} {x y : Setup} :
    RowChange (.powerOnReset straps b landed) x y
  | powerLoss {landed : List (BitVec 96)} {x y : Setup} : y.straps = x.straps → y.pfwHigh = x.pfwHigh →
    RowChange (.powerLoss landed) x y

theorem RowChange.of_eq {c : Instr} {x y : Setup} (h : y = x) : RowChange c x y := h ▸ .same

/-! ### The management commands -/

theorem setup_answerLink (s : State) (st : Status) (d : List Byte) : (s.answerLink st d).setup = s.setup := rfl

section
variable {code : Nat} {s : State}

theorem CodeChange.of_eq {x y : Setup} (h : y = x) : CodeChange code x y := h ▸ .same

/-- A check that fails leaves its answer alone. -/
theorem CodeChange.deny (st : Status) : CodeChange code s.setup (s.deny st).setup := .same

theorem CodeChange.ite {p : Prop} [Decidable p] {t u : State} (ht : p → CodeChange code s.setup t.setup)
    (hu : ¬ p → CodeChange code s.setup u.setup) : CodeChange code s.setup (if p then t else u).setup := by
  split
  · exact ht ‹_›
  · exact hu ‹_›

end

theorem codeChange_cmdSetLog (s : State) (b k : Nat) : CodeChange 0x03 s.setup (s.cmdSetLog b k).setup := by
  unfold State.cmdSetLog
  split
  · exact .deny _
  · exact .ite (fun _ => .deny _) fun _ => .ite (fun _ => .deny _) fun _ => .ite (fun _ => .deny _) fun _ =>
      .geometry _ rfl

theorem codeChange_cmdSetRegion (s : State) (p : RegionParams) : CodeChange 0x04 s.setup (s.cmdSetRegion p).setup := by
  unfold State.cmdSetRegion
  split
  · exact .deny _
  · exact .ite (fun _ => .deny _) fun _ => .ite (fun _ => .deny _) fun _ => .ite (fun _ => .deny _) fun _ =>
      .regions _ (.inl rfl)

theorem codeChange_cmdClearRegion (s : State) (n : Nat) : CodeChange 0x05 s.setup (s.cmdClearRegion n).setup := by
  unfold State.cmdClearRegion
  split
  · exact .ite (fun _ => .deny _) fun _ => .ite (fun _ => .deny _) fun _ => .ite (fun _ => .deny _) fun _ =>
      .regions _ (.inr rfl)
  · exact .deny _

theorem setup_resumeChange (s : State) (old : ResumePolicy) : (s.resumeChange old).setup = s.setup := by
  rw [resumeChange_eq]; rfl

theorem codeChange_cmdSetPolicy (s : State) (p : PolicyParams) : CodeChange 0x07 s.setup (s.cmdSetPolicy p).setup := by
  unfold State.cmdSetPolicy
  split
  · exact .deny _
  · rename_i q _
    refine .ite (fun _ => .deny _) fun _ => .ite (fun _ => .deny _) fun _ => ?_
    dsimp only
    rw [setup_answerLink, (quiet_lowCompare _).setup, setup_resumeChange]
    exact .policy q rfl

theorem codeChange_cmdSetNoticeMask (s : State) (n : Nat) :
    CodeChange 0x10 s.setup (s.cmdSetNoticeMask n).setup :=
  .ite (fun _ => .mask _ rfl) fun _ => .deny _

theorem codeChange_cmdSetLock (s : State) (n : Nat) : CodeChange 0x13 s.setup (s.cmdSetLock n).setup := by
  unfold State.cmdSetLock
  split
  · exact .ite (fun _ => .deny _) fun h => .lock _ rfl (not_lt.1 h)
  · exact .deny _

theorem setup_cmdPopNotice (s : State) : s.cmdPopNotice.setup = s.setup := by
  unfold State.cmdPopNotice
  split <;> rfl

theorem setup_cmdGetRegion (s : State) (n : Nat) : (s.cmdGetRegion n).setup = s.setup := by
  unfold State.cmdGetRegion
  split <;> rfl

theorem setup_cmdGetGroup (s : State) (n : Nat) : (s.cmdGetGroup n).setup = s.setup := by
  unfold State.cmdGetGroup
  split <;> rfl

theorem setup_cmdClearCounters (s : State) : s.cmdClearCounters.setup = s.setup := by
  unfold State.cmdClearCounters
  split <;> rfl

theorem setup_cmdStartFresh (s : State) : s.cmdStartFresh.setup = s.setup := by
  unfold State.cmdStartFresh
  split
  · rfl
  · split
    · rfl
    · exact ((steady_openStart _ _ _).trans (quiet_readAnchors _).steady).setup

theorem setup_cmdStartRecover (s : State) : s.cmdStartRecover.setup = s.setup := by
  unfold State.cmdStartRecover
  split
  · rfl
  · have opened := (steady_openStart s .recover .recovering).trans (quiet_answerLink _ .ok []).steady
    exact (Steady.ite (fun _ => opened.trans (steady_failRecovery _ _ _)) fun _ =>
      opened.trans (quiet_readAnchors _).steady).setup

theorem quiet_stopAnchor (s : State) : Quiet s s.stopAnchor := by
  unfold State.stopAnchor
  split
  · exact Quiet.log rfl (le_refl _)
  · exact quiet_launchStopAnchor _
  · exact quiet_launchStopAnchor _

theorem setup_cmdStop (s : State) : s.cmdStop.setup = s.setup := by
  have gated : Steady s { s.dropRetry with bridge := .gated } :=
    (quiet_dropRetry s).steady.trans (Steady.control (o := s.dropRetry.start) (r := s.dropRetry.resumeAt))
  unfold State.cmdStop
  split
  · exact ((gated.trans (steady_redecidePaused _)).trans (quiet_stopAnchor _).steady).setup
  · rfl

theorem setup_cmdResume (s : State) : s.cmdResume.setup = s.setup := by
  unfold State.cmdResume
  split
  · exact (steady_returnToRunning _ _).setup
  · rfl

theorem setup_cmdAbandonGroup (s : State) (source group : Nat) : (s.cmdAbandonGroup source group).setup = s.setup := by
  unfold State.cmdAbandonGroup
  repeat' split
  all_goals first | rfl | exact (quiet_enterClosing _ _ _ _ _).setup

theorem setup_cmdReleaseBroken (s : State) (source group : Nat) :
    (s.cmdReleaseBroken source group).setup = s.setup := by
  unfold State.cmdReleaseBroken
  repeat' split
  all_goals rfl

/-- A command that a frame names changes what its code owns. -/
theorem codeChange_runCommand (s : State) (code : Nat) (ps : List Byte) :
    CodeChange code s.setup (s.runCommand code ps).setup := by
  unfold State.runCommand
  split
  · exact .same
  · exact .same
  · exact codeChange_cmdSetLog _ _ _
  · exact codeChange_cmdSetRegion _ _
  · exact codeChange_cmdClearRegion _ _
  · exact .of_eq (setup_cmdGetRegion _ _)
  · exact codeChange_cmdSetPolicy _ _
  · exact .same
  · exact .ite (fun _ => .of_eq (setup_cmdStartFresh _)) fun _ => .ite (fun _ => .of_eq (setup_cmdStartRecover _)) fun _ =>
      .deny _
  · exact .of_eq (setup_cmdStop _)
  · exact .of_eq (setup_cmdResume _)
  · exact .of_eq (setup_cmdAbandonGroup _ _ _)
  · exact .of_eq (setup_cmdReleaseBroken _ _ _)
  · exact .of_eq (setup_cmdGetGroup _ _)
  · exact .of_eq (setup_cmdPopNotice _)
  · exact codeChange_cmdSetNoticeMask _ _
  · exact .same
  · exact .of_eq (setup_cmdClearCounters _)
  · exact codeChange_cmdSetLock _ _
  · exact .same

/-! ### Frames -/

/-- A frame stores the first 35 bytes that reach it (R148). -/
theorem foldl_take_stored (bs : List Byte) (f : Frame) (h : f.stored.length ≤ Config.frameBytes) :
    (bs.foldl Frame.take f).stored = f.stored ++ bs.take (Config.frameBytes - f.stored.length) := by
  induction bs generalizing f with
  | nil => simp
  | cons b bs ih =>
    rw [List.foldl_cons]
    by_cases hl : f.stored.length < Config.frameBytes
    · have hstep : f.take b = { f with stored := f.stored ++ [b] } := if_pos hl
      have hroom : Config.frameBytes - f.stored.length = Config.frameBytes - (f.stored ++ [b]).length + 1 := by
        simp; omega
      rw [hstep, ih _ (by simpa using hl), hroom, List.take_succ_cons]
      simp
    · have hstep : f.take b = { f with overlong := true } := if_neg hl
      have hzero : Config.frameBytes - f.stored.length = 0 := by omega
      rw [hstep]
      simpa [hzero] using ih { f with overlong := true } h

theorem field_collect_code (bs : List Byte) : field (Frame.collect bs).stored 0 1 = field bs 0 1 := by
  unfold Frame.collect
  rw [foldl_take_stored bs ⟨[], false⟩ (Nat.zero_le _)]
  cases bs <;> simp [field, Config.frameBytes]

theorem codeChange_takeCommand {code : Nat} {act : State → State} (h : ∀ u : State, CodeChange code u.setup (act u).setup)
    (s : State) (ps : List Byte) : CodeChange code s.setup (s.takeCommand code ps act).setup := by
  unfold State.takeCommand
  split
  · exact .same
  · exact h (s.withCommand code ps)

/-- A frame changes what the command of its first byte owns (R148 to R150). -/
theorem codeChange_writeTransfer (s : State) (a : BitVec 7) (bs : List Byte) :
    CodeChange (field bs 0 1) s.setup (s.writeTransfer a bs).setup := by
  rw [← field_collect_code]
  unfold State.writeTransfer State.endFrame
  refine .ite (fun _ => ?_) fun _ => .same
  refine .ite (fun _ => .same) fun _ => .ite (fun _ => .same) fun _ => .ite (fun _ => .same) fun _ => ?_
  split
  · exact .same
  · exact .ite (fun _ => .same) fun _ => codeChange_takeCommand (fun u => codeChange_runCommand u _ _) _ _

/-! ### Every row -/

/-- What a row's next state, if it has one, may have changed of the configuration. -/
def OutChange (c : Instr) (s : State) (o : Host.Outcome State Fault Refusal) : Prop :=
  ∀ t, o = .next t → RowChange c s.setup t.setup

section
variable {c : Instr} {s : State}

theorem outChange_live {f : State → State} (h : RowChange c s.setup (f s).setup) : OutChange c s (live s f) := by
  intro t ht
  cases ht
  split
  · exact h
  · exact .same

/-- A row of a steady rule leaves the configuration. -/
theorem outChange_steady {f : State → State} (h : Steady s (f s)) : OutChange c s (live s f) :=
  outChange_live (.of_eq h.setup)

theorem setup_takeAnswer {s : State} {t : MTag} {a : MemAnswer} {wanted : Ref → Bool} {act : State → MReq → State}
    (h : ∀ u q, Steady u (act u q)) : (s.takeAnswer t a wanted act).setup = s.setup := by
  have answered : ((s.settle t a).countAnswer a).setup = s.setup := (quiet_countAnswer _ _).setup
  unfold State.takeAnswer
  split
  · rfl
  · rfl
  · split
    · exact answered
    · split
      · exact (h _ _).setup.trans answered
      · rfl

/-- A row that answers an M-port request leaves the configuration where its requester's rule is steady. -/
theorem outChange_answer {t : MTag} {a : MemAnswer} {wanted : State → Ref → Bool} {act : State → State → MReq → State}
    (h : ∀ v u q, Steady u (act v u q)) : OutChange c s (live s fun s => s.takeAnswer t a (wanted s) (act s)) :=
  outChange_live (.of_eq (setup_takeAnswer (h _)))

/-- The row of a management command that owns a part. -/
theorem outChange_command {code : Nat} {ps : List Byte} {act : State → State} (hc : Carries c code)
    (h : ∀ u : State, CodeChange code u.setup (act u).setup) : OutChange c s (live s fun s => s.takeCommand code ps act) :=
  outChange_live (.command hc (codeChange_takeCommand h s ps))

/-- The row of a management command that owns no part. -/
theorem outChange_reader {code : Nat} {ps : List Byte} {act : State → State} (h : ∀ u : State, (act u).setup = u.setup) :
    OutChange c s (live s fun s => s.takeCommand code ps act) := by
  refine outChange_live (.of_eq ?_)
  unfold State.takeCommand
  split
  · rfl
  · exact h _

end

theorem setup_issue (s : State) (c : Cls) (q : MReq) (t : MTag) : (s.issue c q t).setup = s.setup :=
  (quiet_noteIssued _ _).setup

theorem outChange_mportGrant (s : State) : OutChange .mportGrant s (execMportGrant s) := by
  intro t ht
  unfold execMportGrant at ht
  repeat' split at ht
  all_goals cases ht
  all_goals exact .of_eq (by first | rfl | exact setup_issue _ _ _ _)

theorem rowChange_assertPfw (s : State) : RowChange .pfwAssert s.setup s.assertPfw.setup := by
  unfold State.assertPfw
  have shown {t : State} (h : Steady { s with pfwHigh := s.assertedLevel } t) :
      RowChange .pfwAssert s.setup t.setup := h.setup ▸ .pfw s.assertedLevel (.inl rfl)
  split
  · exact .same
  · dsimp only
    split
    · exact shown (steady_enterDraining _)
    · exact shown (steady_stopRecovery _)
    all_goals exact .pfw _ (.inl rfl)

theorem rowChange_deassertPfw (s : State) : RowChange .pfwDeassert s.setup s.deassertPfw.setup := by
  unfold State.deassertPfw
  split
  · dsimp only
    split
    · rw [(quiet_resumeIfAuto _).setup]
      exact .pfw _ (.inr rfl)
    · exact .pfw _ (.inr rfl)
  · exact .same

theorem setup_expire (s : State) (t : MTag) : (if (s.tag t).state = .outstanding ∧ (s.tag t).limit ≤ s.now
    then (s.retire t).handError (s.tag t).req.ref else s).setup = s.setup := by
  split
  · exact (steady_handError _ _).setup
  · rfl

theorem steady_resumeDelayExpiry (s : State) : Steady s s.resumeDelayExpiry := by
  unfold State.resumeDelayExpiry
  split
  · exact Steady.ite (fun _ => steady_returnToRunning _ _) fun _ => Steady.refl s
  · exact Steady.refl s

theorem setup_takeRequest (s : State) (r : Request) : (s.takeRequest r).setup = s.setup := by
  unfold State.takeRequest
  split <;> rfl

/-- Every row changes what it owns of the configuration and nothing else. -/
theorem exec_rowChange (c : Instr) (s : State) : OutChange c s (exec c s) := by
  cases c with
  | hostRequest r =>
    unfold exec execHostRequest
    exact outChange_live (.of_eq (setup_takeRequest s r))
  | admitWrite =>
    unfold exec execAdmitWrite
    exact outChange_steady (steady_takeNext _ _)
  | admitRead =>
    unfold exec execAdmitRead
    exact outChange_steady (steady_takeNext _ _)
  | markCommit =>
    unfold exec execMarkCommit
    exact outChange_steady (steady_takeNext _ _)
  | markAbandon =>
    unfold exec execMarkAbandon
    exact outChange_steady (steady_takeNext _ _)
  | markOtherKind =>
    unfold exec execMarkOtherKind
    exact outChange_steady (steady_takeNext _ _)
  | responseSent =>
    unfold exec execResponseSent
    exact outChange_steady (quiet_sendOldest _).steady
  | holdReevaluate =>
    unfold exec execHoldReevaluate
    exact outChange_steady (steady_reevaluatePass _ _)
  | holdTimeout source tag =>
    unfold exec execHoldTimeout
    exact outChange_steady (quiet_holdTimeout _ _ _).steady
  | idleExpiry slot =>
    unfold exec execIdleExpiry
    exact outChange_steady (quiet_expireIdle _ _).steady
  | closingRecordAllocate =>
    unfold exec execClosingRecordAllocate
    have grown := grow_allocateDue s
    refine outChange_live (.of_eq ?_)
    unfold State.setup
    rw [grown.regions, grown.geometry, grown.policy, grown.mask, grown.lock, grown.straps, grown.pfwHigh, grown.now]
  | mportGrant =>
    unfold exec execMportGrant
    exact outChange_mportGrant s
  | responseLimitExpiry tag =>
    unfold exec execResponseLimitExpiry
    exact outChange_live (.of_eq (setup_expire s tag))
  | lateResponse tag ans =>
    unfold exec execLateResponse
    exact outChange_live (.of_eq (by split <;> rfl))
  | preResetResponse tag ans =>
    unfold exec execPreResetResponse
    exact outChange_answer fun _ u _ => Steady.refl u
  | biReadDone tag raced =>
    unfold exec execBiReadDone
    refine outChange_answer fun _ u _ => ?_
    split
    · exact (quiet_biReadDone _ _ _).steady
    · exact Steady.refl u
  | biReadFailed tag =>
    unfold exec execBiReadFailed
    refine outChange_answer fun _ u _ => ?_
    split
    · exact (quiet_biReadFailed _ _).steady
    · exact Steady.refl u
  | recordWriteDone tag =>
    unfold exec execRecordWriteDone
    refine outChange_answer (wanted := fun _ r => r.isRecordWrite false || r.isRecordWrite true) fun _ u _ => ?_
    split
    · exact steady_recordDone _ _
    · exact Steady.refl u
  | recordWriteFailed tag landed =>
    unfold exec execRecordWriteFailed
    refine outChange_answer fun _ u _ => ?_
    split
    · exact (quiet_recordFailed _ _).steady
    · exact Steady.refl u
  | recordRetryFailed tag landed =>
    unfold exec execRecordRetryFailed
    refine outChange_answer fun _ u _ => ?_
    split
    · exact steady_retryFailed _ _
    · exact Steady.refl u
  | dataWriteDone tag =>
    unfold exec execDataWriteDone
    refine outChange_answer fun _ u _ => ?_
    split
    · exact (quiet_dataDone _ _ _).steady
    · exact Steady.refl u
  | dataWriteFailed tag landed =>
    unfold exec execDataWriteFailed
    refine outChange_answer fun _ u _ => ?_
    split
    · exact (quiet_dataFailed _ _ _).steady
    · exact Steady.refl u
  | passReadAnswered tag ans =>
    unfold exec execPassReadAnswered
    refine outChange_answer fun _ u _ => ?_
    split
    · exact (quiet_passAnswered _ _ _ _).steady
    · exact Steady.refl u
  | passWriteAnswered tag ans =>
    unfold exec execPassWriteAnswered
    refine outChange_answer fun _ u _ => ?_
    split
    · exact (quiet_passAnswered _ _ _ _).steady
    · exact Steady.refl u
  | anchorWriteDone tag =>
    unfold exec execAnchorWriteDone
    exact outChange_answer fun _ _ _ => steady_anchorAnswered _ _
  | anchorWriteFailed tag landed =>
    unfold exec execAnchorWriteFailed
    exact outChange_answer fun _ _ _ => steady_anchorAnswered _ _
  | anchorRetry =>
    unfold exec execAnchorRetry
    exact outChange_steady (quiet_anchorRetry _).steady
  | rollbackTakeSlot =>
    unfold exec execRollbackTakeSlot
    exact outChange_steady (quiet_takeSlot _).steady
  | walkReadAnswered tag ans =>
    unfold exec execWalkReadAnswered
    refine outChange_answer fun _ u _ => ?_
    split
    · exact Steady.ite (fun _ => steady_walkReadFailed _ _) fun _ => steady_walkReadDone _ _
    · exact Steady.refl u
  | restoreAnswered tag ans =>
    unfold exec execRestoreAnswered
    exact outChange_answer (wanted := fun _ r => decide (r = .restore)) fun _ _ _ =>
      Steady.ite (fun _ => steady_restoreFailed _) fun _ => steady_restoreDone _
  | pfwAssert =>
    unfold exec execPfwAssert
    exact outChange_live (rowChange_assertPfw s)
  | pfwDeassert =>
    unfold exec execPfwDeassert
    exact outChange_live (rowChange_deassertPfw s)
  | drainEnd =>
    unfold exec execDrainEnd
    exact outChange_steady (Steady.ite (fun _ => (quiet_launchDrainAnchor _).steady) fun _ => Steady.refl s)
  | drainDone tag =>
    unfold exec execDrainDone
    exact outChange_answer fun _ _ _ => steady_anchorAnswered _ _
  | resumeDelayExpiry =>
    unfold exec execResumeDelayExpiry
    exact outChange_steady (steady_resumeDelayExpiry _)
  | warmReset =>
    unfold exec execWarmReset
    exact outChange_live .same
  | powerOnReset straps pfwHigh landed =>
    unfold exec execPowerOnReset
    exact fun t ht => .powerOn
  | anchorReadAnswered tag ans =>
    unfold exec execAnchorReadAnswered
    refine outChange_answer fun _ u _ => ?_
    split
    · exact Steady.ite (fun _ => steady_anchorReadFailed _) fun _ => steady_anchorReadDone _ _ _
    · exact Steady.refl u
  | freshAnchorAnswered tag ans =>
    unfold exec execFreshAnchorAnswered
    exact outChange_answer fun _ _ _ => steady_anchorAnswered _ _
  | scanReadAnswered tag ans =>
    unfold exec execScanReadAnswered
    exact outChange_answer (wanted := fun _ r => decide (r = .scanRead)) fun _ _ _ =>
      Steady.ite (fun _ => steady_scanFailed _) fun _ => steady_scanDone _ _
  | recoveryFinalAnchor =>
    unfold exec execRecoveryFinalAnchor
    refine outChange_steady ?_
    split
    · exact Steady.ite (fun _ => (quiet_finalAnchor _ _).steady) fun _ => Steady.refl s
    · exact Steady.refl s
  | recoveryDone tag ans =>
    unfold exec execRecoveryDone
    exact outChange_answer fun _ _ _ => steady_anchorAnswered _ _
  | stopAnchorAnswered tag ans =>
    unfold exec execStopAnchorAnswered
    exact outChange_answer fun _ _ _ => steady_anchorAnswered _ _
  | commandFrame address bytes =>
    unfold exec execCommandFrame
    exact outChange_live (.command (.frame address bytes rfl) (codeChange_writeTransfer s address bytes))
  | getIdent =>
    unfold exec execGetIdent
    exact outChange_reader fun _ => rfl
  | getState =>
    unfold exec execGetState
    exact outChange_reader fun _ => rfl
  | setLog base exponent =>
    unfold exec execSetLog
    exact outChange_command (.setLog _ _) fun u => codeChange_cmdSetLog u _ _
  | setRegion p =>
    unfold exec execSetRegion
    exact outChange_command (.setRegion _) fun u => codeChange_cmdSetRegion u _
  | clearRegion index =>
    unfold exec execClearRegion
    exact outChange_command (.clearRegion _) fun u => codeChange_cmdClearRegion u _
  | getRegion index =>
    unfold exec execGetRegion
    exact outChange_reader fun u => setup_cmdGetRegion u _
  | setPolicy p =>
    unfold exec execSetPolicy
    exact outChange_command (.setPolicy _) fun u => codeChange_cmdSetPolicy u _
  | getPolicy =>
    unfold exec execGetPolicy
    exact outChange_reader fun _ => rfl
  | startFresh =>
    unfold exec execStartFresh
    exact outChange_reader setup_cmdStartFresh
  | startRecover =>
    unfold exec execStartRecover
    exact outChange_reader setup_cmdStartRecover
  | stop =>
    unfold exec execStop
    exact outChange_reader setup_cmdStop
  | resume =>
    unfold exec execResume
    exact outChange_reader setup_cmdResume
  | abandonGroup source group =>
    unfold exec execAbandonGroup
    exact outChange_reader fun u => setup_cmdAbandonGroup u _ _
  | releaseBroken source group =>
    unfold exec execReleaseBroken
    exact outChange_reader fun u => setup_cmdReleaseBroken u _ _
  | getGroup slot =>
    unfold exec execGetGroup
    exact outChange_reader fun u => setup_cmdGetGroup u _
  | popNotice =>
    unfold exec execPopNotice
    exact outChange_reader setup_cmdPopNotice
  | setNoticeMask mask =>
    unfold exec execSetNoticeMask
    exact outChange_command (.setNoticeMask _) fun u => codeChange_cmdSetNoticeMask u _
  | getCounters =>
    unfold exec execGetCounters
    exact outChange_reader fun _ => rfl
  | clearCounters =>
    unfold exec execClearCounters
    exact outChange_reader setup_cmdClearCounters
  | setLock level =>
    unfold exec execSetLock
    exact outChange_command (.setLock _) fun u => codeChange_cmdSetLock u _
  | powerLoss landed =>
    unfold exec execPowerLoss
    exact outChange_live (.powerLoss rfl rfl)

/-! ### The statement -/

/-- A power event. -/
def Instr.IsPower (c : Instr) : Prop := (∃ st b l, c = .powerOnReset st b l) ∨ ∃ l, c = .powerLoss l

/-- What a row's change says of each part: who may have changed it. -/
theorem RowChange.owners {c : Instr} {x y : Setup} (h : RowChange c x y) :
    (y.regions ≠ x.regions → Instr.IsPower c ∨ ∃ code, Carries c code ∧ (code = 0x04 ∨ code = 0x05)) ∧
    (y.geometry ≠ x.geometry → Instr.IsPower c ∨ Carries c 0x03) ∧
    (y.policy ≠ x.policy → Instr.IsPower c ∨ Carries c 0x07) ∧
    (y.mask ≠ x.mask → Instr.IsPower c ∨ Carries c 0x10) ∧
    (y.lock ≠ x.lock → Instr.IsPower c ∨ (Carries c 0x13 ∧ x.lock < y.lock)) ∧
    (y.straps ≠ x.straps → ∃ st b l, c = .powerOnReset st b l) ∧
    (y.pfwHigh ≠ x.pfwHigh → (∃ st b l, c = .powerOnReset st b l) ∨ c = .pfwAssert ∨ c = .pfwDeassert) ∧
    (y.now ≠ x.now → Instr.IsPower c) := by
  cases h with
  | same => simp
  | command hc hcode =>
    cases hcode with
    | same => simp
    | regions r h => simpa using fun _ => Or.inr ⟨_, hc, h⟩
    | geometry g h => subst h; simpa using fun _ => Or.inr hc
    | policy p h => subst h; simpa using fun _ => Or.inr hc
    | mask m h => subst h; simpa using fun _ => Or.inr hc
    | lock l h hle => subst h; simpa using fun hne => Or.inr ⟨hc, lt_of_le_of_ne hle (Ne.symm hne)⟩
  | pfw b h => simpa using fun _ => Or.inr h
  | powerOn => simp [Instr.IsPower]
  | powerLoss hstraps hpfw => simp [Instr.IsPower, hstraps, hpfw]

/-- Settles O7: a row changes what it owns, and the rows that own a part are the ones named. -/
theorem setupChangesOnlyByItsCommands : Obligations.SetupChangesOnlyByItsCommands := by
  intro c s t hrun
  dsimp only
  obtain ⟨hregions, hgeometry, hpolicy, hmask, hlock, hstraps, hpfw, hnow⟩ := (exec_rowChange c s t hrun).owners
  refine ⟨fun h => ?_, fun h => ?_, fun h => ?_, fun h => ?_, fun h => ?_, hstraps, hpfw, hnow,
    (kept_exec c s t hrun).pending⟩
  · rcases hregions h with hp | ⟨code, hc, rfl | rfl⟩
    · exact .inl hp
    · cases hc with
      | frame a bs hcode => exact .inr (.inl ⟨a, bs, rfl, hcode⟩)
      | setRegion p => exact .inr (.inr (.inr (.inl ⟨p, rfl⟩)))
    · cases hc with
      | frame a bs hcode => exact .inr (.inr (.inl ⟨a, bs, rfl, hcode⟩))
      | clearRegion n => exact .inr (.inr (.inr (.inr ⟨n, rfl⟩)))
  · refine (hgeometry h).imp_right fun hc => ?_
    cases hc with
    | frame a bs hcode => exact .inl ⟨a, bs, rfl, hcode⟩
    | setLog b k => exact .inr ⟨b, k, rfl⟩
  · refine (hpolicy h).imp_right fun hc => ?_
    cases hc with
    | frame a bs hcode => exact .inl ⟨a, bs, rfl, hcode⟩
    | setPolicy p => exact .inr ⟨p, rfl⟩
  · refine (hmask h).imp_right fun hc => ?_
    cases hc with
    | frame a bs hcode => exact .inl ⟨a, bs, rfl, hcode⟩
    | setNoticeMask n => exact .inr ⟨n, rfl⟩
  · refine (hlock h).imp_right fun ⟨hc, hlt⟩ => ⟨?_, hlt⟩
    cases hc with
    | frame a bs hcode => exact .inl ⟨a, bs, rfl, hcode⟩
    | setLock n => exact .inr ⟨n, rfl⟩

end Sys2Proof.Machine
end

section
/-! SET_REGION and CLEAR_REGION: the range of their parameters, what an entry overlaps, and the checks in the order of R152
(R31, R32, R155). -/

namespace Sys2Proof.Machine

/-! ### What the checks test -/

/-- Parameters of SET_REGION in range (R31, R32, section 12.3). -/
def RegionInRange (p : RegionParams) : Prop :=
  p.index < 8 ∧ p.base % 4096 = 0 ∧ p.size % 4096 = 0 ∧ 4096 ≤ p.size ∧ p.size ≤ 2 ^ 34 ∧ p.base + p.size ≤ 2 ^ 36 ∧
    1 ≤ p.cls ∧ p.cls ≤ 3 ∧ 1 ≤ p.policy ∧ p.policy ≤ 2

/-- The entry that parameters in range name (section 12.3). -/
def regionNamed (p : RegionParams) : Region :=
  ⟨true, p.base, p.size, if p.cls = 1 then .journaled else if p.cls = 2 then .readOnly else .pass,
    if p.policy = 1 then .refuse else .passUnlogged⟩

theorem regionClass_ofCode (n : Nat) : RegionClass.ofCode n =
    if 1 ≤ n ∧ n ≤ 3 then some (if n = 1 then .journaled else if n = 2 then .readOnly else .pass) else none := by
  match n with
  | 0 | 1 | 2 | 3 => rfl
  | n + 4 => rw [if_neg (by omega)]; rfl

theorem ungrouped_ofCode (n : Nat) : Ungrouped.ofCode n =
    if 1 ≤ n ∧ n ≤ 2 then some (if n = 1 then .refuse else .passUnlogged) else none := by
  match n with
  | 0 | 1 | 2 => rfl
  | n + 3 => rw [if_neg (by omega)]; rfl

theorem regionDecode_inRange {p : RegionParams} (h : RegionInRange p) {i : Fin 8} (hi : i.val = p.index) :
    RegionParams.decode p = some (i, regionNamed p) := by
  obtain ⟨hindex, hbase, hsize, hmin, hmax, hend, hcls, hcls', hpolicy, hpolicy'⟩ := h
  obtain rfl : i = ⟨p.index, hindex⟩ := Fin.ext hi
  unfold RegionParams.decode
  simp only [regionClass_ofCode, ungrouped_ofCode, if_pos (And.intro hcls hcls'), if_pos (And.intro hpolicy hpolicy'),
    dif_pos hindex]
  exact if_pos ⟨hbase, hsize, hmin, hmax, hend⟩

theorem regionDecode_outOfRange {p : RegionParams} (h : ¬ RegionInRange p) : RegionParams.decode p = none := by
  unfold RegionParams.decode
  rw [regionClass_ofCode, ungrouped_ofCode]
  by_cases hcls : 1 ≤ p.cls ∧ p.cls ≤ 3
  · by_cases hpolicy : 1 ≤ p.policy ∧ p.policy ≤ 2
    · by_cases hindex : p.index < 8
      · simp only [if_pos hcls, if_pos hpolicy, dif_pos hindex]
        refine if_neg fun ⟨hbase, hsize, hmin, hmax, hend⟩ => h ?_
        exact ⟨hindex, hbase, hsize, hmin, hmax, hend, hcls.1, hcls.2, hpolicy.1, hpolicy.2⟩
      · simp only [if_pos hcls, if_pos hpolicy, dif_neg hindex]
    · simp only [if_pos hcls, if_neg hpolicy]
  · simp only [if_neg hcls]

/-- The region table may change (R155). -/
def State.RegionsFree (s : State) : Prop := s.bridge = .gated ∨ (s.bridge = .running ∧ ∀ j, (s.slot j).state = .free)

theorem regionsOpen_eq_false_iff (s : State) : s.regionsOpen = false ↔ ¬ s.RegionsFree := by
  rw [← Bool.not_eq_true, not_iff_not]
  simp only [State.regionsOpen, State.RegionsFree, Bool.or_eq_true, Bool.and_eq_true, decide_eq_true_eq,
    slotsInUse_eq_zero_iff]

theorem meetsRegion_iff (s : State) (i : Fin 8) (r : Region) : s.meetsRegion i r = true ↔
    ∃ j : Fin 8, j ≠ i ∧ (s.regions[j]).valid = true ∧ r.base < (s.regions[j]).base + (s.regions[j]).size ∧
      (s.regions[j]).base < r.base + r.size := by
  have all : ∀ j : Fin 8, j ∈ [(0 : Fin 8), 1, 2, 3, 4, 5, 6, 7] := by decide
  simp only [State.meetsRegion, List.any_eq_true, Bool.and_eq_true, decide_eq_true_eq, rangesMeet_iff, and_assoc]
  exact exists_congr fun j => and_iff_right (all j)

theorem meetsLog_iff (s : State) (r : Region) : s.meetsLog r = true ↔ ∃ g, s.log.geometry = some g ∧
    r.base < g.base + 128 + 32 * 2 ^ g.exponent ∧ g.base < r.base + r.size := by
  unfold State.meetsLog
  cases s.log.geometry with
  | none => simp
  | some g => simp [rangesMeet_iff, Geometry.areaEnd, Geometry.slots]

/-! ### The commands -/

section
variable {s : State} (h : s.linkReady)
include h

theorem exec_setRegion_outOfRange {p : RegionParams} (hr : ¬ RegionInRange p) :
    exec (.setRegion p) s = .next (s.answerLink .range []) := by
  refine (live_takeCommand h _ _ _).trans ?_
  unfold State.cmdSetRegion
  rw [regionDecode_outOfRange hr]
  rfl

/-- What SET_REGION does once its parameters are in range, by its further checks in their order. -/
theorem exec_setRegion {p : RegionParams} (hr : RegionInRange p) {i : Fin 8} (hi : i.val = p.index) :
    exec (.setRegion p) s = .next
      (if 2 ≤ s.link.lock.val then s.answerLink .locked []
      else if s.regionsOpen = false then s.answerLink .busy []
      else if s.meetsRegion i (regionNamed p) = true ∨ s.meetsLog (regionNamed p) = true then s.answerLink .overlap []
      else { s with regions := s.regions.set i (regionNamed p) }.answerLink .ok []) := by
  refine (live_takeCommand h _ _ _).trans ?_
  unfold State.cmdSetRegion
  simp only [regionDecode_inRange hr hi, State.lockedAt, decide_eq_true_eq]
  rfl

/-- What CLEAR_REGION does for an index in range, by its checks in their order. -/
theorem exec_clearRegion (i : Fin 8) : exec (.clearRegion i.val) s = .next
    (if 2 ≤ s.link.lock.val then s.answerLink .locked []
    else if s.regionsOpen = false then s.answerLink .busy []
    else if (s.regions[i]).valid = false then s.answerLink .notFound []
    else { s with regions := s.regions.set i { s.regions[i] with valid := false } }.answerLink .ok []) := by
  refine (live_takeCommand h _ _ _).trans ?_
  unfold State.cmdClearRegion
  simp only [dif_pos i.isLt, State.lockedAt, decide_eq_true_eq]
  rfl

theorem exec_clearRegion_outOfRange {n : Nat} (hn : 8 ≤ n) :
    exec (.clearRegion n) s = .next (s.answerLink .range []) := by
  refine (live_takeCommand h _ _ _).trans ?_
  unfold State.cmdClearRegion
  rw [dif_neg (not_lt.2 hn)]
  rfl

end

/-- Settles O11: each clause takes its branch of the checks. -/
theorem regionCommands : Obligations.RegionCommands := by
  intro s h
  dsimp only
  refine ⟨fun p => ⟨fun hr => exec_setRegion_outOfRange h hr, fun i hr hi => ?_⟩,
    fun n hn => exec_clearRegion_outOfRange h hn, fun i => ?_⟩
  · rw [exec_setRegion h hr hi]
    have hfree := regionsOpen_eq_false_iff s
    have hmeets : s.meetsRegion i (regionNamed p) = true ∨ s.meetsLog (regionNamed p) = true ↔ _ :=
      or_congr (meetsRegion_iff s i (regionNamed p)) (meetsLog_iff s (regionNamed p))
    refine ⟨fun hl => by rw [if_pos hl], fun hl hb => ?_, fun hl hb ho => ?_, fun hl hb ho => ?_⟩
    all_goals rw [if_neg (by omega)]
    · rw [if_pos (hfree.2 hb)]
    · rw [if_neg fun hn => hfree.1 hn hb, if_pos (hmeets.2 ho)]
    · rw [if_neg fun hn => hfree.1 hn hb, if_neg fun hm => ho (hmeets.1 hm)]
      rfl
  · rw [exec_clearRegion h i]
    have hfree := regionsOpen_eq_false_iff s
    refine ⟨fun hl => by rw [if_pos hl], fun hl hb => ?_, fun hl hb hv => ?_, fun hl hb hv => ?_⟩
    all_goals rw [if_neg (by omega)]
    · rw [if_pos (hfree.2 hb)]
    · rw [if_neg fun hn => hfree.1 hn hb, if_pos hv]
    · rw [if_neg fun hn => hfree.1 hn hb, if_neg fun hn => Bool.false_ne_true (hn.symm.trans hv)]

end Sys2Proof.Machine
end

section
/-! The front of the intake (R26 to R29): which rows take the front request, when the admission unit waits, and what it
refuses before any other check. -/

namespace Sys2Proof.Machine

/-! ### HOST_REQUEST (R26, R28) -/

theorem isPresent_iff (s : State) (source : Source) (tag : ReqTag) : s.isPresent source tag = true ↔
    (∃ q ∈ s.host.intake, q.req.source = source ∧ q.req.tag = tag) ∨
    (∃ h ∈ s.host.holds, h.req.source = source ∧ h.req.tag = tag) ∨
    (∃ e ∈ s.host.inflight, e.source = source ∧ e.tag = tag) ∨
    ∃ p ∈ s.host.responses, p.source = source ∧ p.tag = tag := by
  simp only [State.isPresent, Bool.or_eq_true, List.any_eq_true, Bool.and_eq_true, decide_eq_true_eq, or_assoc]

/-- Settles O17: the intake's room decides, and the mark is the test of R28. -/
theorem hostRequestTaken : Obligations.HostRequestTaken := by
  intro s r hpower
  have hrun : exec (.hostRequest r) s = .next (s.takeRequest r) := live_of_power hpower _
  rw [hrun]
  refine ⟨fun hroom => ⟨s.isPresent r.source r.tag, isPresent_iff s r.source r.tag, ?_⟩, fun hfull => ?_⟩
  · exact congrArg _ (if_pos hroom)
  · exact congrArg _ (if_neg (not_lt.2 hfull))

/-! ### The rows of the admission unit -/

/-- Each row of the admission unit takes the front request of the kinds it is the row of. -/
theorem admission_row {c : Instr} (h : c ∈ [Instr.admitWrite, .admitRead, .markCommit, .markAbandon, .markOtherKind]) :
    ∃ p : ReqBody → Bool, (∀ s, exec c s = live s fun s => s.takeNext p) ∧ ∀ b, p b = true ↔ admitRow b = c := by
  simp only [List.mem_cons, List.not_mem_nil, or_false] at h
  rcases h with rfl | rfl | rfl | rfl | rfl
  · exact ⟨ReqKind.isWrite, fun _ => rfl, fun b => by rcases b with _ | _ | ⟨_, _ | _ | _⟩ <;> simp [ReqKind.isWrite, admitRow]⟩
  · exact ⟨ReqKind.isRead, fun _ => rfl, fun b => by rcases b with _ | _ | ⟨_, _ | _ | _⟩ <;> simp [ReqKind.isRead, admitRow]⟩
  · exact ⟨ReqKind.isMark .commit, fun _ => rfl, fun b => by
      rcases b with _ | _ | ⟨_, _ | _ | _⟩ <;> simp [ReqKind.isMark, admitRow]⟩
  · exact ⟨ReqKind.isMark .abandon, fun _ => rfl, fun b => by
      rcases b with _ | _ | ⟨_, _ | _ | _⟩ <;> simp [ReqKind.isMark, admitRow]⟩
  · exact ⟨ReqKind.isMark .other, fun _ => rfl, fun b => by
      rcases b with _ | _ | ⟨_, _ | _ | _⟩ <;> simp [ReqKind.isMark, admitRow]⟩

theorem admitRow_mem (b : ReqBody) :
    admitRow b ∈ [Instr.admitWrite, .admitRead, .markCommit, .markAbandon, .markOtherKind] := by
  rcases b with _ | _ | ⟨_, _ | _ | _⟩ <;> simp [admitRow]

/-- The row of the front request's kind decides it, when the admission unit may take it. -/
theorem exec_admitRow {s : State} {q : Intake} {rest : List Intake} (h : s.takes) (hin : s.host.intake = q :: rest) :
    exec (admitRow q.req.body) s = .next s.decideFront := by
  obtain ⟨hpower, hmarked, hpause⟩ := h
  obtain ⟨p, hrow, hp⟩ := admission_row (admitRow_mem q.req.body)
  rw [hrow, live_of_power hpower]
  simp [State.takeNext, hin, (hp _).2 rfl, hmarked, hpause]

/-- Settles O19: without power the part is inert, and otherwise the test of the row's kind, of the marks and of the pause
stops it. -/
theorem admissionWaits : Obligations.AdmissionWaits := by
  intro s c hc hwait
  obtain ⟨p, hrow, hp⟩ := admission_row hc
  rw [hrow]
  by_cases hpower : s.power = true
  · rw [live_of_power hpower]
    refine congrArg _ ?_
    unfold State.takeNext
    split
    · rfl
    · rename_i q rest hin
      refine if_neg fun htest => ?_
      simp only [Bool.and_eq_true, Bool.not_eq_true'] at htest
      obtain ⟨⟨hkind, hmarked⟩, hpause⟩ := htest
      rcases hwait with hn | ⟨room, hroom⟩ | hempty | ⟨q', rest', hin', hother⟩
      · exact hn ⟨hpower, hmarked, hpause⟩
      · simp [State.pauseOver, hroom] at hpause
      · simp [hin] at hempty
      · obtain ⟨rfl, -⟩ := List.cons.inj (hin.symm.trans hin')
        exact hother ((hp _).1 hkind)
  · simp [live, hpower]

/-! ### Malformed requests (R29) -/

theorem malformed_iff (r : Request) : malformed r = true ↔
    match r.body with
    | .read addr len => len = 0 ∨ 64 < addr.toNat % 64 + len
    | .write _ mask _ _ => mask = 0
    | .mark group kind => group = 0 ∨ kind = .other := by
  unfold malformed
  cases r.body <;> simp

theorem decideFront_malformed {s : State} {q : Intake} {rest : List Intake} (hin : s.host.intake = q :: rest)
    (h : q.dup = true ∨ malformed q.req = true) : s.decideFront = s.refusedFront q.req rest .malformed := by
  have htest : (q.dup || malformed q.req) = true := by simpa using h
  rw [← takeFront_refuse_eq s q.req .malformed q rest hin]
  simp only [State.decideFront, hin, htest, if_true]

/-- Settles O18: the duplicate mark and the tests of R29 come before every other check. -/
theorem malformedRefused : Obligations.MalformedRefused := by
  intro s q rest htakes hin hbad
  rw [exec_admitRow htakes hin]
  refine congrArg _ (decideFront_malformed hin (hbad.imp_right fun h => (malformed_iff q.req).2 ?_))
  cases hbody : q.req.body <;> simpa [hbody] using h

/-! ### A sound request -/

section
variable {s : State} {src : Source} {tag : ReqTag} {rest : List Intake}

/-- The row that takes a READ decides the sound one at the front. -/
theorem exec_admitRead {a : BitVec 36} {len : Nat} (h : s.front ⟨src, tag, .read a len⟩ rest) (hlen : 1 ≤ len)
    (hline : a.toNat % 64 + len ≤ 64) : exec .admitRead s = .next (s.settleFront ⟨src, tag, .read a len⟩
      (s.readVerdict s.host.holds src a.toNat)) := by
  obtain ⟨htakes, hin⟩ := h
  have hsound : ¬ malformed ⟨src, tag, .read a len⟩ = true := by
    rw [malformed_iff]; dsimp only; omega
  refine (exec_admitRow htakes hin).trans (congrArg _ ?_)
  simp [State.decideFront, hin, hsound]

/-- The row that takes a MARK decides the sound one at the front. -/
theorem exec_admitMark {g : GroupNo} {kind : MarkKind} (h : s.front ⟨src, tag, .mark g kind⟩ rest) (hg : g ≠ 0)
    (hkind : kind ≠ .other) : exec (admitRow (.mark g kind)) s = .next (s.settleMark ⟨src, tag, .mark g kind⟩ g kind
      (s.markVerdict src g kind)) := by
  obtain ⟨htakes, hin⟩ := h
  have hsound : ¬ malformed ⟨src, tag, .mark g kind⟩ = true := by
    rw [malformed_iff]; exact not_or.2 ⟨hg, hkind⟩
  refine (exec_admitRow htakes hin).trans (congrArg _ ?_)
  simp [State.decideFront, hin, hsound]

end

end Sys2Proof.Machine
end

section
/-! READs and WRITEs by the class of their line and the bridge state (R33 to R39, R55, R56, R60, R78), and the journaled
write without a record (R69). -/

namespace Sys2Proof.Machine

/-! ### The class of an address (R33) -/

theorem inLogArea_iff (s : State) (a : Nat) : s.inLogArea a = true ↔
    ∃ g, s.log.geometry = some g ∧ g.base ≤ a ∧ a < g.base + 128 + 32 * 2 ^ g.exponent := by
  unfold State.inLogArea
  cases s.log.geometry with
  | none => simp
  | some g =>
    simp only [Option.some.injEq, exists_eq_left', Bool.and_eq_true, decide_eq_true_eq]
    rfl

theorem covers_iff (r : Region) (a : Nat) : r.covers a = true ↔ r.valid = true ∧ r.base ≤ a ∧ a < r.base + r.size := by
  simp [Region.covers, and_assoc]

theorem mem_regions_iff (s : State) (r : Region) : r ∈ s.regions.toList ↔ ∃ i : Fin 8, s.regions[i] = r := by
  have := regions_any_iff s fun x => decide (x = r)
  simpa only [List.any_eq_true, decide_eq_true_eq, exists_eq_right] using this

theorem classify_log {s : State} {a : Nat} (h : s.inLogArea a = true) : s.classify a = .log := if_pos h

theorem classify_uncovered {s : State} {a : Nat} (h : ¬ s.inLogArea a = true)
    (hnone : ∀ i : Fin 8, ¬ (s.regions[i]).covers a = true) : s.classify a = .pass := by
  have hfind : (s.regions.toList.find? fun r => r.covers a) = none := by
    refine List.find?_eq_none.2 fun r hr => ?_
    obtain ⟨i, rfl⟩ := (mem_regions_iff s r).1 hr
    exact hnone i
  simp only [State.classify, if_neg h, hfind]

/-- An address that one entry alone covers has that entry's class. -/
theorem classify_covered {s : State} {a : Nat} (h : ¬ s.inLogArea a = true) {i : Fin 8}
    (hi : (s.regions[i]).covers a = true) (honly : ∀ j : Fin 8, (s.regions[j]).covers a = true → j = i) :
    s.classify a = match (s.regions[i]).cls with
      | .journaled => .journaled (s.regions[i]).policy
      | .readOnly => .readOnly
      | .pass => .pass := by
  have hfind : (s.regions.toList.find? fun r => r.covers a) = some s.regions[i] := by
    cases hf : s.regions.toList.find? fun r => r.covers a with
    | none => exact absurd hi (List.find?_eq_none.1 hf _ ((mem_regions_iff s _).2 ⟨i, rfl⟩))
    | some r =>
      obtain ⟨j, rfl⟩ := (mem_regions_iff s r).1 (List.mem_of_find?_eq_some hf)
      rw [honly j (List.find?_some (p := fun r : Region => r.covers a) hf)]
  simp only [State.classify, if_neg h, hfind] <;> rfl

theorem isJournaled_iff (c : AddrClass) : c.isJournaled = true ↔ ∃ u, c = .journaled u := by
  cases c <;> simp [AddrClass.isJournaled]

/-! ### READs -/

section
variable {s : State} {older : List Hold} {src : Source} {a : Nat}

theorem readVerdict_idle (h : s.bridge = .gated ∨ s.bridge = .faulted) : s.readVerdict older src a = .pass := by
  rcases h with h | h <;> simp only [State.readVerdict, h]

theorem readVerdict_recovering (h : s.bridge = .recovering) : s.readVerdict older src a =
    if (s.classify a).isJournaled = true then .refuse .recovering else .pass := by
  simp only [State.readVerdict, h]

theorem readVerdict_halting (h : s.bridge = .draining ∨ s.bridge = .halted) : s.readVerdict older src a =
    if s.lineRollingBack (a / 64) = true then .refuse .halted else .pass := by
  rcases h with h | h <;>
  · simp only [State.readVerdict, h]
    rfl

theorem readVerdict_running (h : s.bridge = .running) : s.readVerdict older src a =
    orderedOr older src (a / 64) (if ((s.classify a).isJournaled && s.lineRollingBack (a / 64)) = true
      then .hold (.rollbackRead (a / 64)) else .pass) := by
  simp only [State.readVerdict, h]
  rfl

end

/-- Settles O20: the class of an address, then the READ by each bridge state. -/
theorem readDecided : Obligations.ReadDecided := by
  refine ⟨fun s a => ?_, fun s src tag a len rest => ?_⟩
  · dsimp only
    simp only [← inLogArea_iff, ← covers_iff]
    exact ⟨classify_log, classify_uncovered, fun i hlog hi honly => classify_covered hlog hi honly⟩
  · dsimp only
    intro hfront hlen hline
    have hin := hfront.2
    rw [exec_admitRead hfront hlen hline]
    simp only [← isJournaled_iff, ← lineRollingBack_iff, ← Bool.and_eq_true]
    have hpass := (settleFront_pass s _ rest hin src tag).1 a len
    refine ⟨fun hb => ?_, fun hb => ⟨fun hj => ?_, fun hj => ?_⟩, fun hb => ⟨fun hr => ?_, fun hr => ?_⟩,
      fun hb => ⟨fun h hl => ?_, fun hnone => ⟨fun hr => ?_, fun hr => ?_⟩⟩⟩
    · rw [readVerdict_idle hb, hpass]
    · rw [readVerdict_recovering hb, if_pos hj, settleFront_refused hin]
    · rw [readVerdict_recovering hb, if_neg hj, hpass]
    · rw [readVerdict_halting hb, if_pos hr, settleFront_refused hin]
    · rw [readVerdict_halting hb, if_neg hr, hpass]
    · rw [readVerdict_running hb, orderedOr_of_latest hl, settleFront_hold hin]
    · rw [readVerdict_running hb, orderedOr_of_none hnone, if_pos hr, settleFront_hold hin]
    · rw [readVerdict_running hb, orderedOr_of_none hnone, if_neg hr, hpass]

/-! ### WRITEs -/

section
variable {s : State} {older : List Hold} {src : Source} {line : Nat} {mask : BitVec 64} {g : GroupNo}

theorem writeVerdict_gated (h : s.bridge = .gated ∨ s.bridge = .recovering) :
    s.writeVerdict older src line mask g = .refuse .gated := by
  rcases h with h | h <;> simp only [State.writeVerdict, h]

theorem writeVerdict_halting (h : s.bridge = .draining ∨ s.bridge = .halted) :
    s.writeVerdict older src line mask g = .refuse .halted := by
  rcases h with h | h <;> simp only [State.writeVerdict, h]

/-- In FAULTED the class of the line alone decides (R35). -/
theorem writeVerdict_faulted (h : s.bridge = .faulted) : s.writeVerdict older src line mask g =
    match s.classify (line * 64) with
    | .pass => .pass
    | .readOnly | .log => .refuse .roRegion
    | .journaled _ => .refuse .faulted := by
  simp only [State.writeVerdict, h]
  rfl

/-- In RUNNING the class decides first, but for a group's write to a JOURNALED line (R36, R60). -/
theorem writeVerdict_running (h : s.bridge = .running) : s.writeVerdict older src line mask g =
    match s.classify (line * 64) with
    | .readOnly | .log => .refuse .roRegion
    | .pass => orderedOr older src line .pass
    | .journaled u =>
      if g = 0 then s.ungroupedVerdict older u src line else s.groupVerdict older ⟨src, g⟩ line mask := by
  simp only [State.writeVerdict, h]
  rfl

end

/-- Settles O21: the bridge state decides, and in RUNNING and FAULTED the class of the line. -/
theorem writeByStateAndClass : Obligations.WriteByStateAndClass := by
  intro s src tag line mask data g rest
  dsimp only
  intro hfront hmask
  have hin := hfront.2
  rw [exec_admitWrite hfront hmask]
  have hpass := (settleFront_pass s _ rest hin src tag).2 line mask data g
  refine ⟨fun hb => ?_, fun hb => ?_, fun hb => ⟨fun hc => ?_, fun hc => ?_, fun u hc => ?_⟩,
    fun hb => ⟨fun hc => ?_, fun hc hg => ?_, fun hc => ⟨fun h hl => ?_, fun hnone => ?_⟩,
      fun hc hg => ⟨fun h hl => ?_, fun hnone => ⟨fun hclaim => ?_, fun c hclaim => ?_⟩⟩⟩⟩
  · rw [writeVerdict_gated hb, settleFront_refused hin]
  · rw [writeVerdict_halting hb, settleFront_refused hin]
  · rw [writeVerdict_faulted hb, hc, hpass]
  · rcases hc with hc | hc <;> rw [writeVerdict_faulted hb, hc, settleFront_refused hin]
  · rw [writeVerdict_faulted hb, hc, settleFront_refused hin]
  · rcases hc with hc | hc <;> rw [writeVerdict_running hb, hc, settleFront_refused hin]
  · simp only [writeVerdict_running hb, hc, if_pos hg, State.ungroupedVerdict, settleFront_refused hin]
  · simp only [writeVerdict_running hb, hc, orderedOr_of_latest hl, settleFront_hold hin]
  · simp only [writeVerdict_running hb, hc, orderedOr_of_none hnone, hpass]
  · simp only [writeVerdict_running hb, hc, if_pos hg, State.ungroupedVerdict, orderedOr_of_latest hl,
      settleFront_hold hin]
  · simp only [writeVerdict_running hb, hc, if_pos hg, State.ungroupedVerdict, orderedOr_of_none hnone, hclaim, hpass,
      Option.isSome_none, Bool.false_eq_true, if_false]
  · simp only [writeVerdict_running hb, hc, if_pos hg, State.ungroupedVerdict, orderedOr_of_none hnone, hclaim,
      settleFront_holdOr hin, Option.isSome_some, if_true]

/-! ### The journaled write without a record (R69) -/

/-- A write that needs no record is short of an in-flight entry or of nothing (R27). -/
theorem settleFront_noRecord {s : State} {r : Request} {p : Plan} (hs : p.span = none) (hf : s.host.inflight.length < 32) :
    s.settleFront r (.journal p) = s.takeFront.admitRequest r (.journal p) := by
  have hroom : s.inflightRoom = true := decide_eq_true hf
  delta State.settleFront State.shortage
  simp only [hroom, hs]
  rfl

/-- What a write without a record leaves before the data phases are looked at: its group is joined and it waits in
FRONTIER_WAIT. -/
theorem admitJournaled_noRecord {s : State} {source : Source} {tag : ReqTag} {line : Nat} {mask : BitVec 64}
    {data : List Byte} {group : GroupNo} {p : Plan} (hs : p.span = none) :
    s.admitJournaled source tag line mask data group p = ((s.joined ⟨source, group⟩ line p).enterFlight
      ⟨source, tag, .journaled line mask data p.slot none, .frontierWait⟩).promote := by
  simp only [State.admitJournaled, hs, makeClaim_joinGroup]
  rfl

theorem getLast?_cons_of_some {α : Type} {x y : α} {l : List α} (h : l.getLast? = some y) : (x :: l).getLast? = some y := by
  simp [List.getLast?_cons, h]

/-- The last in-flight entry, a journaled write without a record in FRONTIER_WAIT, begins its data phase exactly under an
ACTIVE newest anchor and its source's line order, whatever the writes before it do (R39, R67). -/
theorem dataPhases_last {s : State} {before es fs : List Inflight} {qs : List MReq} {source : Source} {tag : ReqTag}
    {line : Nat} {mask : BitVec 64} {data : List Byte} {slot : SlotNo}
    (h : DataPhases s before (es ++ [⟨source, tag, .journaled line mask data slot none, .frontierWait⟩]) fs qs) :
    let goes : Prop := s.anchorActive = true ∧ InLineOrder (before ++ es) source line true
    (goes → fs.getLast? = some ⟨source, tag, .journaled line mask data slot none, .dataQueued⟩ ∧
      ⟨.dataWrite source tag, true, line * 64, 64, mask.setWidth 96, data⟩ ∈ qs) ∧
    (¬ goes → fs.getLast? = some ⟨source, tag, .journaled line mask data slot none, .frontierWait⟩) := by
  induction es generalizing before fs qs with
  | nil =>
    have hmay : s.MayBeginData before source line none ↔ s.anchorActive = true ∧ InLineOrder before source line true := by
      simp [State.MayBeginData, anchorActive_iff]
    cases h with
    | begins hbegins hrest =>
      cases hrest
      exact ⟨fun _ => ⟨rfl, List.mem_singleton_self _⟩, fun hn => absurd (hmay.1 hbegins) (by simpa using hn)⟩
    | stays hstays hrest =>
      cases hrest
      exact ⟨fun hgoes => absurd (hmay.2 (by simpa using hgoes)) (hstays _ _ _ _ _ rfl rfl), fun _ => rfl⟩
  | cons x es ih =>
    cases h with
    | begins _ hrest =>
      have hlast := ih hrest
      rw [List.append_cons]
      exact ⟨fun hgoes => ⟨getLast?_cons_of_some (hlast.1 hgoes).1, List.mem_cons_of_mem _ (hlast.1 hgoes).2⟩,
        fun hn => getLast?_cons_of_some (hlast.2 hn)⟩
    | stays _ hrest =>
      have hlast := ih hrest
      rw [List.append_cons]
      exact ⟨fun hgoes => ⟨getLast?_cons_of_some (hlast.1 hgoes).1, (hlast.1 hgoes).2⟩,
        fun hn => getLast?_cons_of_some (hlast.2 hn)⟩

/-- A write without a record, taken from the front, as it waits in FRONTIER_WAIT: nothing but the host side and its group's
slot has changed (R46, R47, R63). -/
theorem joined_noRecord_eq {s : State} {q : Intake} {rest : List Intake} (hin : s.host.intake = q :: rest) (k : Key)
    (line : Nat) (i : SlotNo) (e : Inflight) :
    (s.takeFront.joined k line ⟨i, false, false, none⟩).enterFlight e = { s with
      host := { s.host with intake := rest, paused := none, inflight := s.host.inflight ++ [e] }
      grp := { s.grp with slots := s.grp.slots.set i { s.slot i with
        inflight := (s.slot i).inflight + 1
        idle := if s.link.policy.idleLimit = 0 then none else some (s.link.policy.idleLimit * 1000) } } } := by
  simp only [State.joined, State.enterFlight, State.takeFront, hin, List.tail_cons, Bool.false_eq_true, if_false,
    List.append_nil]
  rfl

/-- Settles O25: the write joins its group, and of the data phases looked at then its own comes last. -/
theorem journaledWriteWithoutRecord : Obligations.JournaledWriteWithoutRecord := by
  intro s src tag line mask data g rest i logged
  dsimp only
  intro hfront hmask hjournal hspan
  have hverdict : s.writeVerdict s.host.holds src line.toNat mask g = .journal ⟨i, false, false, none⟩ := by
    have h := writeVerdict_of_mayJournal (mask := mask) hjournal
    rw [hspan] at h
    exact h.trans (if_pos rfl)
  rw [exec_admitWrite hfront hmask, hverdict]
  refine ⟨fun hf => congrArg _ (settleFront_fullFlight (not_lt.2 hf)), fun hf => ?_⟩
  have hrun : s.takeFront.admitRequest ⟨src, tag, .write line mask data g⟩ (.journal ⟨i, false, false, none⟩) =
      ((s.takeFront.joined ⟨src, g⟩ line.toNat ⟨i, false, false, none⟩).enterFlight
        ⟨src, tag, .journaled line.toNat mask data i none, .frontierWait⟩).promote :=
    admitJournaled_noRecord (s := s.takeFront) (p := ⟨i, false, false, none⟩) rfl
  rw [settleFront_noRecord rfl hf, hrun, joined_noRecord_eq hfront.2]
  have hbegin := dataPhasesBegin_promote { s with
    host := { s.host with intake := rest, paused := none, inflight := s.host.inflight ++
      [⟨src, tag, .journaled line.toNat mask data i none, .frontierWait⟩] }
    grp := { s.grp with slots := s.grp.slots.set i { s.slot i with
      inflight := (s.slot i).inflight + 1
      idle := if s.link.policy.idleLimit = 0 then none else some (s.link.policy.idleLimit * 1000) } } }
  refine ⟨_, _, rfl, hbegin, rfl, ?_⟩
  obtain ⟨qs, hphases, heq⟩ := hbegin
  obtain ⟨hgo, hstay⟩ := dataPhases_last hphases
  refine ⟨fun hgoes => ⟨(hgo hgoes).1, ?_⟩, hstay⟩
  rw [heq]
  exact List.mem_append_right _ (hgo hgoes).2

end Sys2Proof.Machine
end

section
/-! MARKs: those refused for the bridge state or for want of a slot (R34, R35, R90), and COMMIT by its slot's state, with the
entry of a slot to a closing state (R86, R91, R96, R98). -/

namespace Sys2Proof.Machine

/-! ### A slot enters a closing state -/

/-- Refusing held writes leaves the slots, so a slot may be changed after it. -/
theorem refuseHeldWrites_updSlot (s : State) (i : SlotNo) (f : GroupSlot → GroupSlot) (k : Key) (why : Reason) :
    (s.updSlot i f).refuseHeldWrites k why = (s.refuseHeldWrites k why).updSlot i f := by
  unfold State.refuseHeldWrites State.refuseHeld
  rw [foldl_refuse_wake, foldl_refuse_wake]
  rfl

/-- An OPEN slot as it closes: with a cause and a waiter, its idle deadline cleared (R43, R47). -/
def GroupSlot.closed (g : GroupSlot) (st : SlotState) (cause : Cause) (waiter : Option Waiter) : GroupSlot :=
  { g with state := st, cause := some cause, waiter := waiter, idle := none }

theorem enterClosing_eq (s : State) (i : SlotNo) (st : SlotState) (cause : Cause) (waiter : Option Waiter) :
    s.enterClosing i st cause waiter = ((s.withWritesRefused i .groupClosing).withSlot i
      ((s.slot i).closed st cause waiter)).closingStep i := by
  unfold State.enterClosing
  rw [refuseHeldWrites_updSlot, refuseHeldWrites_eq]
  rfl

/-- A slot closes, in a bridge state where its closing step may follow; a damaged group rolls back (R86, R96, R98). -/
theorem slotCloses_enterClosing {s : State} {i : SlotNo} {st : SlotState} (hb : s.bridge ≠ .faulted)
    (hst : (st = .committing ∧ (s.slot i).damaged = false) ∨ st = .rollbackWait) (cause : Cause) (waiter : Option Waiter) :
    SlotCloses s (s.enterClosing i st cause waiter) i st cause waiter := by
  rw [enterClosing_eq]
  have hself := slot_withSlot_self (s.withWritesRefused i .groupClosing) i ((s.slot i).closed st cause waiter)
  have hother : ∀ j, j ≠ i → ((s.withWritesRefused i .groupClosing).withSlot i
      ((s.slot i).closed st cause waiter)).slot j = s.slot j := fun j hj => slot_of_set_ne (s := s) rfl hj
  have hstep := closingStepTaken_closingStep ((s.withWritesRefused i .groupClosing).withSlot i
    ((s.slot i).closed st cause waiter)) i
  unfold ClosingStepTaken at hstep
  rw [hself] at hstep
  obtain ⟨hcommit, -, hqueue, hnone⟩ := hstep
  unfold SlotCloses
  by_cases hnow : (s.slot i).inflight = 0
  · rcases hst with ⟨rfl, hd⟩ | rfl
    · rw [hcommit ⟨hnow, hb⟩ rfl hd]
      exact ⟨hself, hother, ⟨rfl, rfl⟩, fun _ => (List.append_nil _).symm, fun _ => rfl, fun h => absurd hnow h, rfl, rfl⟩
    · rw [hqueue ⟨hnow, hb⟩ rfl]
      refine ⟨hself, hother, ⟨rfl, rfl⟩, fun _ => rfl, fun _ => ?_, fun h => absurd hnow h, rfl, rfl⟩
      simp [State.withSlot, State.withWritesRefused]
  · rw [hnone (.inl fun h => hnow h.1)]
    exact ⟨hself, hother, ⟨rfl, rfl⟩, fun h => absurd h hnow, fun h => absurd h hnow, fun _ => ⟨rfl, rfl⟩, rfl, rfl⟩

/-! ### The verdict on a MARK and what becomes of it -/

section
variable {s : State} {src : Source} {g : GroupNo} {kind : MarkKind}

theorem markVerdict_gated (h : s.bridge = .gated ∨ s.bridge = .recovering) : s.markVerdict src g kind = .refuse .gated := by
  rcases h with h | h <;> simp only [State.markVerdict, h]

theorem markVerdict_halting (h : s.bridge = .draining ∨ s.bridge = .halted) : s.markVerdict src g kind = .refuse .halted := by
  rcases h with h | h <;> simp only [State.markVerdict, h]

theorem markVerdict_faulted (h : s.bridge = .faulted) : s.markVerdict src g kind = .refuse .faulted := by
  simp only [State.markVerdict, h]

/-- In RUNNING a MARK for a key without a slot is refused (R90). -/
theorem markVerdict_notOpen (h : s.bridge = .running) (hk : kind ≠ .other) (hn : s.findSlot ⟨src, g⟩ = none) :
    s.markVerdict src g kind = .refuse .notOpen := by
  cases kind with
  | commit => simp only [State.markVerdict, h, State.commitVerdict, hn]
  | abandon => simp only [State.markVerdict, h, State.abandonVerdict, hn]
  | other => exact absurd rfl hk

end

/-- What becomes of the MARK at the front by its verdict: refused, or with an in-flight entry admitted, or the admission unit
pauses for want of one (R27, R30, R90). -/
theorem settleMark_eq {s : State} {r : Request} {q : Intake} {rest : List Intake} {g : GroupNo} {kind : MarkKind}
    (hin : s.host.intake = q :: rest) (v : MarkVerdict) : s.settleMark r g kind v = match v with
      | .refuse why => s.refusedFront r rest why
      | v => if s.host.inflight.length < 32 then s.takeFront.admitMark r.source r.tag g kind v
        else s.pausedFront .inFlight := by
  have hroom : s.inflightRoom = true ↔ s.host.inflight.length < 32 := decide_eq_true_iff
  cases v with
  | refuse why => exact takeFront_refuse_eq s r why q rest hin
  | broken | join | close => simp only [State.settleMark, hroom]; rfl

/-- Settles O26: the verdict on the mark is a refusal, and it is carried out at once. -/
theorem markRefused : Obligations.MarkRefused := by
  intro s src tag g kind rest
  dsimp only
  intro hfront hg hkind
  have hin := hfront.2
  rw [exec_admitMark hfront hg hkind, settleMark_eq hin]
  refine ⟨fun hb => ?_, fun hb => ?_, fun hb => ?_, fun hb hn => ?_⟩
  · rw [markVerdict_gated hb]
  · rw [markVerdict_halting hb]
  · rw [markVerdict_faulted hb]
  · rw [markVerdict_notOpen hb hkind hn]

/-! ### COMMIT (R91) -/

/-- A COMMIT in RUNNING for a key with a slot, by the slot's state. -/
theorem markVerdict_commit {s : State} {src : Source} {g : GroupNo} {i : SlotNo} (hb : s.bridge = .running)
    (hf : s.findSlot ⟨src, g⟩ = some i) : s.markVerdict src g .commit = match (s.slot i).state with
      | .opened => if (s.slot i).damaged then .close i .rollbackWait .damaged else .close i .committing .mark
      | .committing => if (s.slot i).waiter.isNone then .join i else .refuse .groupClosing
      | .rollbackWait | .rollingBack | .broken => .refuse .tooLate
      | .free => .refuse .notOpen := by
  simp only [State.markVerdict, hb, State.commitVerdict, hf] <;> rfl

/-- Settles O27: the verdict by the slot's state, and the room in the in-flight table. -/
theorem commitMark : Obligations.CommitMark := by
  intro s src tag g rest i
  dsimp only
  intro hfront hg hb hf
  have hin := hfront.2
  have hrun : exec .markCommit s = _ := exec_admitMark hfront hg nofun
  rw [hrun, settleMark_eq hin, markVerdict_commit hb hf]
  have htaken : s.takeFront.enterFlight ⟨src, tag, .mark g .commit, .waiting⟩ = { s with host := { s.host with
      intake := rest, paused := none, inflight := s.host.inflight ++ [⟨src, tag, .mark g .commit, .waiting⟩] } } := by
    simp only [State.takeFront, State.enterFlight, hin, List.tail_cons]
  have hcloses := fun st hst cause => slotCloses_enterClosing (st := st) (i := i)
    (s := s.takeFront.enterFlight ⟨src, tag, .mark g .commit, .waiting⟩) (by simp [hb]) hst cause (some ⟨src, tag, .commit⟩)
  rw [htaken] at hcloses
  refine ⟨fun ho hd hroom => ?_, fun ho hd hroom => ?_, fun hc hw hroom => ?_, fun hadm hfull => ?_, fun hc hw => ?_,
    fun hlate => ?_⟩
  · simp only [ho, hd, Bool.false_eq_true, if_false, if_pos hroom]
    exact ⟨_, congrArg _ (congrArg (State.enterClosing · i _ _ _) htaken), hcloses _ (.inl ⟨rfl, hd⟩) _⟩
  · simp only [ho, hd, if_true, if_pos hroom]
    exact ⟨_, congrArg _ (congrArg (State.enterClosing · i _ _ _) htaken), hcloses _ (.inr rfl) _⟩
  · simp only [hc, hw, Option.isNone_none, if_true, if_pos hroom]
    rw [← htaken]
    rfl
  · rcases hadm with ho | ⟨hc, hw⟩
    · cases (s.slot i).damaged <;> simp only [ho, Bool.false_eq_true, if_false, if_true, if_neg hfull]
    · simp only [hc, hw, Option.isNone_none, if_true, if_neg hfull]
  · have hsome : ¬ (s.slot i).waiter.isNone = true := by simpa using hw
    simp only [hc, if_neg hsome]
  · rcases hlate with hl | hl | hl <;> simp only [hl]

end Sys2Proof.Machine
end

section
/-! RESPONSE_SENT: the oldest decided response leaves, and an admitted request's in-flight entry with it (R27, R30, R62, R81,
R166). -/

namespace Sys2Proof.Machine

/-- The in-flight entry that an admitted request's sent response frees is the first answered one of its source and tag. -/
def Inflight.frees (r : Response) (e : Inflight) : Bool :=
  decide (e.source = r.source) && decide (e.tag = r.tag) && decide (e.stage = .done)

theorem eraseP_first {α : Type} {p : α → Bool} {pre post : List α} {e : α} (hpre : ∀ x ∈ pre, ¬ p x = true)
    (he : p e = true) : (pre ++ e :: post).eraseP p = pre ++ post := by
  rw [List.eraseP_append_right _ hpre, List.eraseP_cons_of_pos he]

/-- The host side after an admitted request's response has been sent: its entry is freed, which wakes the entries that wait
for one and ends a pause for one (R27, R62, R81). -/
def HostSide.freed (h : HostSide) (r : Response) : HostSide := { h with
  inflight := h.inflight.eraseP (Inflight.frees r)
  holds := h.holds.map fun h => if h.room = some .inFlight then { h with marked := true } else h
  paused := h.paused.map fun p => if p.short = .inFlight then { p with freed := true } else p }

/-- REFUSALS counts a REFUSED response as it is sent (R166). -/
def Counters.sent (c : Counters) (a : Answer) : Counters := { c with refusals :=
  match a with
  | .refused _ => min (c.refusals + 1) 4294967295
  | _ => c.refusals }

theorem sendResponse_eq (s : State) (r : Response) : s.sendResponse r = { s with
    host := if r.admitted = true then s.host.freed r else s.host
    notes := { s.notes with counters := s.notes.counters.sent r.answer } } := by
  have hwoken : ({ s with host := { s.host with inflight := s.host.inflight.eraseP (Inflight.frees r) } } : State).wakeRoom
      .inFlight = { s with host := s.host.freed r } := by
    simp only [State.wakeRoom, State.wake, State.setHolds, decide_eq_true_eq]
    rfl
  have hcount : ∀ t : State, (match r.answer with
      | .refused _ => t.count fun c => { c with refusals := satAdd c.refusals 1 }
      | .done _ | .failed _ => t) =
      { t with notes := { t.notes with counters := t.notes.counters.sent r.answer } } := fun t => by
    cases r.answer <;> rfl
  refine (hcount _).trans ?_
  by_cases hadm : r.admitted = true
  · rw [if_pos hadm, if_pos hadm]
    exact congrArg (fun t : State => { t with notes := { t.notes with counters := t.notes.counters.sent r.answer } }) hwoken
  · rw [if_neg hadm, if_neg hadm]

/-- Settles O31: the response sent is the front one, and what wakes with it depends on whether it had been admitted. -/
theorem responseSent : Obligations.ResponseSent := by
  intro s hpower
  have hrun : exec .responseSent s = .next s.sendOldest := live_of_power hpower _
  rw [hrun]
  refine ⟨fun hnone => ?_, fun r rest hresp => ?_⟩
  · simp only [State.sendOldest, hnone]
  · have hsent : s.sendOldest = ({ s with host := { s.host with responses := rest } } : State).sendResponse r := by
      simp only [State.sendOldest, hresp]
    rw [hsent, sendResponse_eq]
    cases hadm : r.admitted
    · exact ⟨_, rfl, rfl, fun _ => ⟨rfl, rfl, rfl⟩, nofun, rfl, rfl, rfl⟩
    · refine ⟨_, rfl, rfl, nofun, fun _ => ⟨fun pre e post hin hsrc htag hdone hpre => ?_, rfl, rfl⟩, rfl, rfl, rfl⟩
      refine (congrArg (List.eraseP (Inflight.frees r)) hin).trans (eraseP_first (fun x hx => ?_) ?_)
      · simpa [Inflight.frees, and_assoc] using hpre x hx
      · simp [Inflight.frees, hsrc, htag, hdone]

end Sys2Proof.Machine
end

section
/-! The answers of pass-through accesses (R37, R38, R110, R116): the request is answered, and the writes in FRONTIER_WAIT that
may begin their data phase do (R67). The M-port's credit rules, the readiness of its requests, and its grant (R112 to R120). -/

namespace Sys2Proof.Machine

section
variable {s : State} {t : MTag} {src : Source} {tag : ReqTag} (hp : s.power = true)
include hp

theorem exec_passReadAnswered (a : MemAnswer) (h : s.awaits t (.passRead src tag)) :
    exec (.passReadAnswered t a) s = .next ((s.withAnswer t a).passAnswered src tag
      (answerOf a (s.readData t (racedOf a)))) := by
  change execPassReadAnswered t a s = _
  refine (live_takeAnswer hp h _ (fun _ => Ref.isPassRead) _ rfl nofun nofun).trans ?_
  rw [h.2]

theorem exec_passWriteAnswered (a : MemAnswer) (h : s.awaits t (.passWrite src tag)) :
    exec (.passWriteAnswered t a) s = .next ((s.withAnswer t a).passAnswered src tag (answerOf a [])) := by
  change execPassWriteAnswered t a s = _
  refine (live_takeAnswer hp h _ (fun _ => Ref.isPassWrite) _ rfl nofun nofun).trans ?_
  rw [h.2]

end

/-- A pass-through access is answered, and data phases begin. -/
theorem dataPhasesBegin_passAnswered (s : State) (src : Source) (tag : ReqTag) (ans : Answer) :
    DataPhasesBegin { s with host := { s.host with
      inflight := s.host.inflight.map fun e => if e.source = src ∧ e.tag = tag then { e with stage := .done } else e
      responses := s.host.responses ++ [⟨src, tag, ans, true⟩] } } (s.passAnswered src tag ans) := by
  rw [← answerAdmitted_eq]
  exact dataPhasesBegin_promote _

theorem answerOf_error {a : MemAnswer} (h : isErrorAnswer a = true) (data : List Byte) :
    answerOf a data = .failed .memError := by
  cases a with
  | done => cases h
  | error => rfl

theorem answerOf_done {a : MemAnswer} (h : isErrorAnswer a = false) (data : List Byte) : answerOf a data = .done data := by
  cases a with
  | done => rfl
  | error => cases h

/-- A READ returns as many bytes as it asked for, each that of memory where no WRITE was changing it (R110, log 6). -/
theorem readData_length (s : State) (t : MTag) (raced : List Byte) :
    (s.readData t raced).length = (s.tag t).req.len := by simp [State.readData]

theorem readData_unraced {s : State} {t : MTag} {j : Nat} (hj : j < (s.tag t).req.len)
    (hr : (s.tag t).raced.getLsbD j = false) (raced : List Byte) :
    (s.readData t raced)[j]? = some (s.mem.get ((s.tag t).req.addr + j)) := by
  simp [State.readData, hj, hr]

/-- Settles O39: the settled answer, the response by its kind, and the data phases that begin then. -/
theorem passReadAnswered : Obligations.PassReadAnswered := by
  intro s t a src tag hp hawaits hread
  obtain ⟨htaken, hmem⟩ := answerTaken_withAnswer_read a hread
  have hphases := dataPhasesBegin_passAnswered (s.withAnswer t a) src tag (answerOf a (s.readData t (racedOf a)))
  rw [State.withAnswer_host] at hphases
  exact ⟨_, _, _, exec_passReadAnswered hp a hawaits, htaken, hmem, hphases, fun he => answerOf_error he _,
    fun he => ⟨_, answerOf_done he _, readData_length s t _, fun j hj hr => readData_unraced hj hr _⟩⟩

/-- Settles O40: as for the READ, with the bytes that landed. -/
theorem passWriteAnswered : Obligations.PassWriteAnswered := by
  intro s t a src tag hp hwf hawaits
  have hans : (if isErrorAnswer a = true then .failed .memError else .done []) = answerOf a [] := by cases a <;> rfl
  have hphases := dataPhasesBegin_passAnswered (s.withAnswer t a) src tag (answerOf a [])
  rw [State.withAnswer_host] at hphases
  refine ⟨_, _, exec_passWriteAnswered hp a hawaits, answerTaken_withAnswer fun _ => hwf, ?_⟩
  rw [hans]
  exact hphases

end Sys2Proof.Machine
end

section
/-! The M-port: when a request is ready and a class eligible (R112, R114, R118), and the grant (R113, R115, R120). -/

namespace Sys2Proof.Machine

/-! ### Tags -/

theorem mem_allTags (t : MTag) : t ∈ allTags := by fin_cases t <;> decide

theorem freeTag_isSome_iff (s : State) : s.freeTag.isSome = true ↔ ∃ t, (s.tag t).state = .free := by
  simp [State.freeTag, List.find?_isSome, mem_allTags]

theorem allTags_sorted : allTags.Pairwise (· < ·) := by decide

/-- The free tag of a grant is the lowest-numbered one (R113). -/
theorem freeTag_lowest {s : State} {t i : MTag} (h : s.freeTag = some t) (hi : i < t) : (s.tag i).state ≠ .free := by
  obtain ⟨-, before, after, hsplit, hbefore⟩ := List.find?_eq_some_iff_append.1 h
  have hsorted := allTags_sorted
  rw [hsplit] at hsorted
  have hmem := mem_allTags i
  rw [hsplit, List.mem_append, List.mem_cons] at hmem
  rcases hmem with hin | rfl | hin
  · simpa using hbefore i hin
  · exact absurd hi (lt_irrefl _)
  · exact absurd hi (lt_asymm ((List.pairwise_cons.1 (List.pairwise_append.1 hsorted).2.1).1 i hin))

/-! ### The conditions of R40, R112 and R118 -/

theorem overlaps_eq_false_iff (p q : MReq) :
    p.overlaps q = false ↔ p.addr + p.len ≤ q.addr ∨ q.addr + q.len ≤ p.addr := by
  simp only [MReq.overlaps, Bool.and_eq_false_iff, decide_eq_false_iff_not, not_lt]
  exact or_comm

theorem fenced_iff (s : State) (q : MReq) : s.fenced q = false ↔ s.unfenced q := by
  simp only [State.fenced, State.unfenced, List.any_eq_false, mem_allTags, forall_const, Bool.and_eq_true,
    decide_eq_true_eq, not_and, Bool.not_eq_true, overlaps_eq_false_iff, and_imp]

theorem restoreOn_iff (s : State) (line : Nat) : s.restoreOn line = false ↔
    ∀ t, (s.tag t).state = .outstanding → (s.tag t).cls = .rollback → (s.tag t).req.write = true →
      (s.tag t).req.addr / 64 ≠ line := by
  simp only [State.restoreOn, List.any_eq_false, mem_allTags, forall_const, Bool.and_eq_true, decide_eq_true_eq, not_and,
    and_imp]
  rfl

theorem readAfterWrite_iff (s : State) (before : List Inflight) (line : Nat) :
    s.readAfterWrite before line = true ↔ s.ReadsAfterWrites before line := by
  simp only [State.readAfterWrite, State.ReadsAfterWrites, Bool.and_eq_true, Bool.not_eq_true', restoreOn_iff,
    List.all_eq_true, Bool.or_eq_true, Bool.not_eq_true', Bool.and_eq_false_iff, decide_eq_true_eq, decide_eq_false_iff_not]
  refine and_congr_left fun _ => forall₂_congr fun e _ => ?_
  cases e.work.isWrite <;> simp [imp_iff_not_or]

/-- The entries admitted before the first that satisfies a test. -/
theorem admittedBefore_eq {s : State} {p : Inflight → Bool} {before younger : List Inflight} {e : Inflight}
    (h : s.host.inflight = before ++ e :: younger) (he : p e = true) (hb : ∀ x ∈ before, p x = false) :
    s.admittedBefore p = before := by
  have hall : ∀ x ∈ before, (!p x) = true := fun x hx => by simp [hb x hx]
  rw [State.admittedBefore, h, List.takeWhile_append_of_pos hall, List.takeWhile_cons_of_neg (by simp [he]),
    List.append_nil]

theorem walkStopped_iff (s : State) : s.walkStopped = false ↔ ∀ w, s.grp.walk = some w → w.phase ≠ .suspended := by
  unfold State.walkStopped
  cases s.grp.walk <;> simp

/-! ### Readiness by requester (R112) -/

section
variable {s : State} {q : MReq}

theorem not_ready_of_fence {t : MTag} {a : Nat} (hr : (s.tag t).state = .retired) (hw : (s.tag t).req.write = true)
    (h1 : (s.tag t).req.addr ≤ a) (h2 : a < (s.tag t).req.addr + (s.tag t).req.len) (h3 : q.addr ≤ a)
    (h4 : a < q.addr + q.len) : s.ready q = false := by
  have hfenced : s.fenced q = true := by
    rw [← Bool.not_eq_false, fenced_iff]
    intro hun
    have := hun t hr hw
    omega
  simp [State.ready, hfenced]

theorem ready_passRead {src : Source} {tag : ReqTag} {before : List Inflight} (hq : q.ref = .passRead src tag)
    (h : s.admittedAfter before src tag) : s.ready q = true ↔
      s.unfenced q ∧ InLineOrder before src (q.addr / 64) false ∧ s.ReadsAfterWrites before (q.addr / 64) := by
  obtain ⟨e, younger, hin, he, hb⟩ := h
  simp only [State.ready, hq, Bool.and_eq_true, Bool.not_eq_true', fenced_iff, admittedBefore_eq hin he hb, lineOrder_iff,
    readAfterWrite_iff]
  rfl

theorem ready_passWrite {src : Source} {tag : ReqTag} {before : List Inflight} (hq : q.ref = .passWrite src tag)
    (h : s.admittedAfter before src tag) : s.ready q = true ↔
      s.unfenced q ∧ InLineOrder before src (q.addr / 64) true := by
  obtain ⟨e, younger, hin, he, hb⟩ := h
  simp only [State.ready, hq, Bool.and_eq_true, Bool.not_eq_true', fenced_iff, admittedBefore_eq hin he hb, lineOrder_iff]
  rfl

theorem ready_biRead {pos : Nat} {before younger : List Inflight} {e : Inflight} (hq : q.ref = .biRead pos)
    (hin : s.host.inflight = before ++ e :: younger) (he : e.ownsRecord pos = true)
    (hb : ∀ x ∈ before, x.ownsRecord pos = false) :
    s.ready q = true ↔ s.unfenced q ∧ s.ReadsAfterWrites before (q.addr / 64) := by
  simp only [State.ready, hq, Bool.and_eq_true, Bool.not_eq_true', fenced_iff, admittedBefore_eq hin he hb,
    readAfterWrite_iff]
  rfl

theorem ready_walkRead {pos : Nat} (hq : q.ref = .walkRead pos) : s.ready q = true ↔
    s.unfenced q ∧ (∀ h ∈ s.log.window, h.pos ≠ pos) ∧ ∀ w, s.grp.walk = some w → w.phase ≠ .suspended := by
  simp only [State.ready, hq, Bool.and_eq_true, Bool.not_eq_true', fenced_iff, walkStopped_iff, List.all_eq_true,
    decide_eq_true_eq]
  exact and_congr_right fun _ => and_comm

/-- The request has no condition of its own (R112): a record, anchor or data WRITE, a restore, a READ of a START, and one
that waits without a requester (logs 27, 54). -/
def Ref.Unconditional : Ref → Prop
  | .biRead _ | .walkRead _ | .passRead _ _ | .passWrite _ _ => False
  | .recordWrite _ _ | .anchorWrite | .restore | .scanRead | .anchorRead _ | .dataWrite _ _ | .dropped | .preReset => True

theorem ready_unconditional (h : Ref.Unconditional q.ref) : s.ready q = true ↔ s.unfenced q := by
  have hready : s.ready q = !s.fenced q := by
    unfold State.ready
    cases hq : q.ref <;> rw [hq] at h <;> first | exact h.elim | exact Bool.and_true _
  rw [hready, Bool.not_eq_true', fenced_iff]

end

/-! ### Eligibility (R114) -/

theorem oldestReady_isSome_iff (s : State) (c : Cls) :
    (s.oldestReady c).isSome = true ↔ ∃ q ∈ s.mport.queue c, s.ready q = true := by
  simp [State.oldestReady, List.find?_isSome]

theorem eligible_iff (s : State) (c : Cls) : s.eligible c = true ↔
    (∃ t, (s.tag t).state = .free) ∧ (∃ q ∈ s.mport.queue c, s.ready q = true) ∧
      (c ≠ .log → s.held .rollback + s.held .traffic < 14) ∧ (c = .rollback → s.rollbackOut < 2) := by
  rw [← freeTag_isSome_iff, ← oldestReady_isSome_iff]
  unfold State.eligible State.credit
  cases c <;> simp only [Bool.and_eq_true, decide_eq_true_eq] <;> simp [Config.sharedTags, Config.rollbackTags] <;> tauto

/-- Settles O36: each conjunct of eligibility and of readiness on its own. -/
theorem creditAndFence : Obligations.CreditAndFence := by
  refine ⟨eligible_iff, fun s t q a hr hw h1 h2 h3 h4 => not_ready_of_fence hr hw h1 h2 h3 h4, fun s q => ?_⟩
  refine ⟨fun src tag before hq h => ready_passRead hq h, fun src tag before hq h => ready_passWrite hq h,
    fun pos before e younger hq hin he hb => ready_biRead hq hin he hb, fun pos hq => ready_walkRead hq,
    fun hc hn => ready_unconditional ?_, fun hc hn => ready_unconditional ?_, fun src tag hq => ready_unconditional ?_,
    fun hq => ready_unconditional ?_⟩
  · cases hq : q.ref <;> simp_all [Ref.cls, Ref.Unconditional]
  · cases hq : q.ref <;> simp_all [Ref.cls, Ref.Unconditional]
  · rw [hq]; trivial
  · rcases hq with hq | hq <;> rw [hq] <;> trivial

/-! ### The grant (R113, R115, R120) -/

/-- With a pre-reset request outstanding, or no class eligible, nothing is granted. -/
theorem grantChoice_none {s : State} (h : s.settling = true ∨ ∀ c, s.eligible c = false) : s.grantChoice = none := by
  unfold State.grantChoice
  rcases h with h | h
  · rw [if_pos h]
  · have hnone : s.mport.last.rotation.find? s.eligible = none := List.find?_eq_none.2 fun c _ => by simp [h c]
    rw [hnone]
    exact ite_self _

/-- The first eligible class of the rotation has its oldest ready request granted under the lowest free tag. -/
theorem grantChoice_first {s : State} {c : Cls} {before after : List Cls} (hs : s.settling = false)
    (hrot : s.mport.last.rotation = before ++ c :: after) (hb : ∀ d ∈ before, s.eligible d = false)
    (hc : s.eligible c = true) : ∃ q t, s.grantChoice = some (c, q, t) := by
  have hfind : s.mport.last.rotation.find? s.eligible = some c := by
    rw [hrot, List.find?_append, List.find?_eq_none.2 fun d hd => by simp [hb d hd]]
    simp [hc]
  obtain ⟨hfree, hready, -⟩ := (eligible_iff s c).1 hc
  obtain ⟨q, hq⟩ := Option.isSome_iff_exists.1 ((oldestReady_isSome_iff s c).2 hready)
  obtain ⟨t, ht⟩ := Option.isSome_iff_exists.1 ((freeTag_isSome_iff s).2 hfree)
  exact ⟨q, t, by simp only [State.grantChoice, hs, Bool.false_eq_true, if_false, hfind, hq, ht]⟩

/-- The part after a request of a class is issued under a tag, before its in-flight entry moves on. -/
def State.granted (s : State) (c : Cls) (q : MReq) (t : MTag) : State :=
  let issued : MPort := { s.mport with tags := s.issueTags c q t, last := c }
  { s with mport := issued.setQueue c ((s.mport.queue c).eraseP s.ready) }

theorem tag_granted (s : State) (c : Cls) (q : MReq) (t i : MTag) :
    (s.granted c q t).tag i = (s.issueTags c q t)[i] := by
  cases c <;> rfl

theorem tag_granted_self (s : State) (c : Cls) (q : MReq) (t : MTag) : (s.granted c q t).tag t =
    { (s.granted c q t).tag t with state := .outstanding, cls := c, req := q, limit := s.now + 4000 } := by
  rw [tag_granted]
  unfold State.issueTags
  simp [Config.responseLimit]

theorem noteRace_eq (w : MReq) (e : TagEntry) : TagEntry.noteRace w e = { e with raced := (TagEntry.noteRace w e).raced } := by
  unfold TagEntry.noteRace
  split <;> rfl

theorem tag_granted_ne {s : State} {c : Cls} {q : MReq} {t i : MTag} (h : i ≠ t) :
    (s.granted c q t).tag i = { s.tag i with raced := ((s.granted c q t).tag i).raced } := by
  have hget : (s.granted c q t).tag i = if q.write = true then TagEntry.noteRace q (s.tag i) else s.tag i := by
    rw [tag_granted]
    unfold State.issueTags State.tag
    refine (Vector.getElem_set_ne t.isLt i.isLt fun e => h (Fin.ext e.symm)).trans ?_
    split <;> simp
  rw [hget]
  split
  · exact noteRace_eq q (s.tag i)
  · rfl

theorem granted_queues {s : State} {c : Cls} {q : MReq} {t : MTag} {pre post : List MReq}
    (hq : s.mport.queue c = pre ++ q :: post) (hpre : ∀ x ∈ pre, s.ready x = false) (hr : s.ready q = true) :
    s.granted c q t = { s with mport := {
      tags := (s.granted c q t).mport.tags
      last := c
      logQ := if c = .log then pre ++ post else s.mport.logQ
      rollbackQ := if c = .rollback then pre ++ post else s.mport.rollbackQ
      trafficQ := if c = .traffic then pre ++ post else s.mport.trafficQ } } := by
  have herase : (s.mport.queue c).eraseP s.ready = pre ++ post := by
    rw [hq, List.eraseP_append_right _ fun x hx => by simp [hpre x hx], List.eraseP_cons_of_pos hr]
  unfold State.granted
  rw [herase]
  cases c <;> rfl

/-- The in-flight entry of an issued pass-through access or data write moves on, and data phases begin (R39, R64, R67). -/
theorem dataPhasesBegin_noteIssued (s : State) (src : Source) (tag : ReqTag) (st : Stage) :
    DataPhasesBegin { s with host := { s.host with inflight := s.host.inflight.map fun e =>
      if e.source = src ∧ e.tag = tag ∧ e.stage ≠ .done then { e with stage := st } else e } }
      (s.setStage src tag st).promote := by
  have hlive : (fun e : Inflight => if e.isLive src tag = true then { e with stage := st } else e) =
      fun e => if e.source = src ∧ e.tag = tag ∧ e.stage ≠ .done then { e with stage := st } else e := by
    funext e
    simp only [Inflight.isLive, Bool.and_eq_true, decide_eq_true_eq, and_assoc]
  have h := dataPhasesBegin_promote (s.setStage src tag st)
  unfold State.setStage at h ⊢
  rwa [hlive] at h ⊢

theorem noteIssued_other {s : State} {r : Ref}
    (h : ∀ src tag, r ≠ .passRead src tag ∧ r ≠ .passWrite src tag ∧ r ≠ .dataWrite src tag) : s.noteIssued r = s := by
  cases r with
  | passRead src tag => exact absurd rfl (h src tag).1
  | passWrite src tag => exact absurd rfl (h src tag).2.1
  | dataWrite src tag => exact absurd rfl (h src tag).2.2
  | _ => rfl

theorem exec_mportGrant {s : State} (hp : s.power = true) {c : Cls} {q : MReq} {t : MTag}
    (h : s.grantChoice = some (c, q, t)) : exec .mportGrant s =
      if q.addr + q.len ≤ 2 ^ 36 then .next ((s.granted c q t).noteIssued q.ref) else .fault .outsideMemory := by
  have hspace : q.inSpace = true ↔ q.addr + q.len ≤ 2 ^ 36 := decide_eq_true_iff
  change execMportGrant s = _
  unfold execMportGrant
  simp only [hp, if_true, h, hspace]
  rfl

/-- Settles O35: the choice of class, request and tag, then the entry issued under the tag. -/
theorem grantIssuesOldestReady : Obligations.GrantIssuesOldestReady := by
  intro s hp
  refine ⟨fun h => ?_, fun c before after hs hrot hb hc => ?_⟩
  · have hnone := grantChoice_none h
    change execMportGrant s = _
    unfold execMportGrant
    simp only [hp, if_true, hnone]
  · obtain ⟨q, t, hchoice⟩ := grantChoice_first hs hrot hb hc
    obtain ⟨-, -, hold, htag⟩ := grantChoice_some s c q t hchoice
    obtain ⟨hready, pre, post, hqueue, hpre⟩ := List.find?_eq_some_iff_append.1 hold
    have hpre' : ∀ x ∈ pre, s.ready x = false := fun x hx => by simpa using hpre x hx
    refine ⟨q, pre, post, t, hqueue, hpre', hready, freeTag_free s t htag, fun i hi => freeTag_lowest htag hi,
      fun hout => ?_, fun hin => ?_⟩
    · rw [exec_mportGrant hp hchoice, if_neg (not_le.2 hout)]
    · rw [exec_mportGrant hp hchoice, if_pos hin]
      refine ⟨s.granted c q t, _, rfl, tag_granted_self s c q t, fun i hi => tag_granted_ne hi, fun j hj => ?_,
        fun i hi j hj => ?_, ⟨fun src tag href => ?_, fun src tag href => ?_⟩, fun h => noteIssued_other h,
        granted_queues hqueue hpre' hready⟩
      · rw [tag_granted]
        exact (issueTags_raced s c q t j hj).1
      · rw [tag_granted]
        exact (issueTags_raced s c q t j hj).2 i hi
      · rcases href with href | href <;> rw [href] <;> exact dataPhasesBegin_noteIssued (s.granted c q t) src tag .issued
      · rw [href]
        exact dataPhasesBegin_noteIssued (s.granted c q t) src tag .dataIssued

end Sys2Proof.Machine
end

section
/-! PROOFS. PFW's edges by the bridge state (R87, R122, R123, R130, R133), and what the resets leave (R134). -/

namespace Sys2Proof.Machine

/-! ### The levels of the PFW pin (R122) -/

/-- A deasserted pin is at the level opposite to the asserted one. -/
theorem assertedLevel_of_deasserted {s : State} (h : s.pfwAsserted = false) : s.assertedLevel = !s.pfwHigh := by
  unfold State.pfwAsserted State.assertedLevel at *
  cases hpol : s.link.policy.polarity <;> simp_all

/-- An asserted pin is at the asserted level. -/
theorem assertedLevel_of_asserted {s : State} (h : s.pfwAsserted = true) : s.assertedLevel = s.pfwHigh := by
  unfold State.pfwAsserted State.assertedLevel at *
  cases hpol : s.link.policy.polarity <;> simp_all

theorem assertPfw_of_deasserted {s : State} {b : Bridge} (h : s.pfwAsserted = false) : s.bridge = b → s.assertPfw =
    let shown : State := { s with pfwHigh := !s.pfwHigh }
    match b with
    | .running => shown.enterDraining
    | .recovering => shown.stopRecovery
    | .halted => { shown with resumeAt := none }
    | .gated | .draining | .faulted => shown := by
  rintro rfl
  rw [← assertedLevel_of_deasserted h]
  exact if_neg (by simp [h])

theorem deassertPfw_of_asserted {s : State} (h : s.pfwAsserted = true) : s.deassertPfw =
    let shown : State := { s with pfwHigh := !s.pfwHigh }
    if s.bridge = .halted then shown.resumeIfAuto else shown := by
  unfold State.deassertPfw
  rw [if_pos h, assertedLevel_of_asserted h]

/-- The pin at the level opposite to the asserted one is deasserted. -/
theorem deasserted_of_flip {s : State} (h : s.pfwAsserted = true) :
    ({ s with pfwHigh := !s.pfwHigh } : State).pfwAsserted = false := by
  unfold State.pfwAsserted at *
  cases hpol : s.link.policy.polarity <;> simp_all

/-! ### The stop of a recovery by PFW (R133) -/

theorem anchorUse_recovery_iff (s : State) :
    s.anchorUse = some .recovery ↔ ∃ c a, s.log.anchorOp = .writing c a .recovery := by
  unfold State.anchorUse
  cases s.log.anchorOp <;> simp

/-- The final anchor has been issued when an anchor write of recovery is under way and under a tag. -/
theorem finalIssued_iff (s : State) : s.finalIssued = true ↔
    (∃ c a, s.log.anchorOp = .writing c a .recovery) ∧ ∃ t, s.awaits t .anchorWrite := by
  simp only [State.finalIssued, Bool.and_eq_true, decide_eq_true_eq, anchorUse_recovery_iff, outstanding_iff,
    State.awaits]

theorem stopRecovery_issued {s : State} (h : s.finalIssued = true) : s.stopRecovery = s := if_pos h

/-- A recovery whose final anchor is not issued is to stop: what is due and the anchor write that waits are dropped. -/
theorem stopRecovery_begun {s : State} {o : StartOp} (h : ¬ s.finalIssued = true) (ho : s.start = some o) :
    s.stopRecovery = ({ s with
      start := some { o with stopping := true }
      log := { s.log with due := [], anchorOp := .idle }
      mport := { s.mport with
        logQ := s.mport.logQ.filter fun q => decide (q.ref ≠ .anchorWrite)
        rollbackQ := s.mport.rollbackQ.filter fun q => decide (q.ref ≠ .anchorWrite)
        trafficQ := s.mport.trafficQ.filter fun q => decide (q.ref ≠ .anchorWrite) } } : State).stopCheck := by
  simp only [State.stopRecovery, if_neg h, State.withdraw, ho, Option.map_some, decide_not]

/-- A recovery that is to stop is back in GATED at its stop point. -/
theorem stopCheck_atStopPoint {m : State} {o : StartOp} (h : m.AtStopPoint) (hb : m.bridge = .recovering)
    (ho : m.start = some o) (hst : o.stopping = true) : m.stopCheck = m.backInGated .power 0 :=
  (stopPointMet_stopCheck m).1 ⟨hb, ⟨o, ho, hst⟩, h⟩

/-- Before its stop point it waits. -/
theorem stopCheck_before {m : State} (h : ¬ m.AtStopPoint) : m.stopCheck = m :=
  (stopPointMet_stopCheck m).2 fun hstop => h hstop.2.2

/-- Settles O51: the edge shows the pin at its other level, and the bridge state decides what follows. -/
theorem pfwEdges : Obligations.PfwEdges := by
  intro s hp
  have hassert : exec .pfwAssert s = .next s.assertPfw := live_of_power hp _
  have hdeassert : exec .pfwDeassert s = .next s.deassertPfw := live_of_power hp _
  refine ⟨fun h => hassert.trans (congrArg _ (if_pos h)), fun h => hdeassert.trans (congrArg _ (if_neg (by simp [h]))),
    fun h => ?_, fun h => ?_⟩
  · rw [hassert]
    refine ⟨fun hb => ?_, fun hb => ?_, fun hb => ?_, fun o hb ho => ?_⟩
    · obtain hb | hb | hb := hb <;> exact congrArg _ (assertPfw_of_deasserted h hb)
    · exact congrArg _ (assertPfw_of_deasserted h hb)
    · exact ⟨_, congrArg _ (assertPfw_of_deasserted h hb), drainEntered_enterDraining _⟩
    · rw [assertPfw_of_deasserted h hb, ← finalIssued_iff s]
      refine ⟨fun hi => congrArg _ (stopRecovery_issued (s := { s with pfwHigh := !s.pfwHigh }) hi), fun hi hstop => ?_, fun hi hstop => ?_⟩
      · exact congrArg _ ((stopRecovery_begun (s := { s with pfwHigh := !s.pfwHigh }) hi ho).trans (stopCheck_atStopPoint hstop hb rfl rfl))
      · exact congrArg _ ((stopRecovery_begun (s := { s with pfwHigh := !s.pfwHigh }) hi ho).trans (stopCheck_before hstop))
  · rw [hdeassert, deassertPfw_of_asserted h]
    refine ⟨fun hb hpol => ?_, fun hno => ?_⟩
    · simp only [if_pos hb]
      exact congrArg _ (if_pos ⟨hpol, deasserted_of_flip h⟩)
    · by_cases hb : s.bridge = .halted
      · simp only [if_pos hb]
        exact congrArg _ (if_neg fun hauto => hno ⟨hb, hauto.1⟩)
      · simp only [if_neg hb]

/-! ### The resets and the supply (R134, R110) -/

/-- An OUTSTANDING request becomes a pre-reset one at a warm reset; the other tags stay (R120). -/
theorem tag_warmReset (s : State) (i : MTag) : s.warmReset.tag i =
    if (s.tag i).state = .outstanding then { s.tag i with req := { (s.tag i).req with ref := .preReset } } else s.tag i :=
  Vector.getElem_map ..

theorem tag_powerOn (straps : Fin 4) (pfw : Bool) (m : Memory) (cs : List Instr) (i : MTag) :
    ((State.powerOn straps pfw m cs).tag i).state = .free := by
  simp [State.tag, State.powerOn, MPort.reset, TagEntry.free]

/-- Settles O54: the state after each reset is written out, and the tags are looked up one by one. -/
theorem resets : Obligations.Resets := by
  intro s
  refine ⟨fun hp => ?_, fun straps pfw landed => ?_, fun hp landed => ?_⟩
  · refine ⟨s.warmReset, live_of_power hp _, rfl, rfl, rfl, rfl, rfl, fun i => ⟨fun h => ?_, fun h => ?_⟩⟩
    · rw [tag_warmReset, if_pos h]
    · rw [tag_warmReset, if_neg h]
  · exact ⟨_, rfl, rfl, rfl, rfl, rfl, rfl, rfl, rfl, ⟨rfl, rfl, rfl⟩, tag_powerOn _ _ _ _, rfl, rfl, rfl, rfl, rfl, rfl⟩
  · have hrun : exec (.powerLoss landed) s = .next (s.losePower landed) :=
      live_of_power hp fun s => s.losePower landed
    exact ⟨_, hrun, rfl, rfl, rfl, rfl, rfl, rfl, rfl, ⟨rfl, rfl, rfl⟩,
      tag_powerOn s.link.straps s.pfwHigh (s.landIssued landed) s.pending, rfl, rfl, rfl, rfl, rfl, rfl⟩

end Sys2Proof.Machine
end

section
/-! PROOFS. The re-evaluation of the hold list (R82 to R84): the pass leaves no entry marked, and one marked entry is
decided as though its request had just been taken. -/

namespace Sys2Proof.Machine

/-! ### An admission and the front of the host side

The operations of an admission neither read nor change the hold list, the intake and the pause, so each commutes with a
change of these. -/

/-- The part with another hold list, intake and pause. -/
def State.withFront (s : State) (hs : List Hold) (q : List Intake) (p : Option Pause) : State :=
  { s with host := { s.host with holds := hs, intake := q, paused := p } }

section
variable (s : State) (hs : List Hold) (q : List Intake) (p : Option Pause)

theorem enterFlight_withFront (e : Inflight) :
    (s.withFront hs q p).enterFlight e = (s.enterFlight e).withFront hs q p := rfl

theorem handOver_withFront (r : MReq) : (s.withFront hs q p).handOver r = (s.handOver r).withFront hs q p := rfl

theorem joinGroup_withFront (k : Key) (pl : Plan) :
    (s.withFront hs q p).joinGroup k pl = (s.joinGroup k pl).withFront hs q p := rfl

theorem makeClaim_withFront (l : Nat) (pl : Plan) :
    (s.withFront hs q p).makeClaim l pl = (s.makeClaim l pl).withFront hs q p := by
  unfold State.makeClaim
  split <;> rfl

theorem lowCompare_withFront : (s.withFront hs q p).lowCompare = s.lowCompare.withFront hs q p := by
  unfold State.lowCompare
  simp only [apply_ite (fun t : State => t.withFront hs q p)]
  rfl

theorem allocate_withFront (h : Header) : (s.withFront hs q p).allocate h = (s.allocate h).withFront hs q p :=
  lowCompare_withFront { s with log := { s.log with window := s.log.window ++ [h], head := s.log.head + h.slots } } ..

theorem allocatePad_withFront (n : Nat) :
    (s.withFront hs q p).allocatePad n = (s.allocatePad n).withFront hs q p := by
  unfold State.allocatePad
  split
  · rfl
  · exact congrArg (fun t : State => t.writeRecord (s.padHeader n) false (s.padHeader n).bytes) (allocate_withFront ..)

theorem allocateBefore_withFront (i : SlotNo) (l f c : Nat) :
    (s.withFront hs q p).allocateBefore i l f c = (s.allocateBefore i l f c).withFront hs q p := by
  unfold State.allocateBefore
  exact congrArg (fun t : State => t.updSlot i _) (allocate_withFront ..)

theorem recomputeTail_withFront : (s.withFront hs q p).recomputeTail = s.recomputeTail.withFront hs q p := rfl

theorem barrierTrigger_withFront : (s.withFront hs q p).barrierTrigger = s.barrierTrigger.withFront hs q p := by
  unfold State.barrierTrigger
  rw [apply_ite (fun t : State => t.withFront hs q p)]
  rfl

theorem promoteList_withFront (l before : List Inflight) :
    (s.withFront hs q p).promoteList before l = s.promoteList before l := by
  induction l generalizing before with
  | nil => rfl
  | cons e es ih =>
    simp only [State.promoteList, ih]
    rfl

theorem foldl_handOver_withFront (l : List MReq) :
    l.foldl State.handOver (s.withFront hs q p) = (l.foldl State.handOver s).withFront hs q p :=
  List.foldl_hom (fun t : State => t.withFront hs q p) fun _ _ => rfl

theorem promote_withFront : (s.withFront hs q p).promote = s.promote.withFront hs q p := by
  unfold State.promote
  rw [promoteList_withFront]
  exact foldl_handOver_withFront { s with host := { s.host with inflight := (s.promoteList [] s.host.inflight).1 } } ..

@[simp] theorem withFront_log : (s.withFront hs q p).log = s.log := rfl
@[simp] theorem withFront_geo : (s.withFront hs q p).geo = s.geo := rfl

theorem admitJournaled_withFront (src : Source) (tag : ReqTag) (line : Nat) (mask : BitVec 64) (data : List Byte)
    (g : GroupNo) (pl : Plan) : (s.withFront hs q p).admitJournaled src tag line mask data g pl =
      (s.admitJournaled src tag line mask data g pl).withFront hs q p := by
  unfold State.admitJournaled
  cases pl.span <;>
    simp only [joinGroup_withFront, makeClaim_withFront, enterFlight_withFront, promote_withFront, withFront_log,
      withFront_geo, allocatePad_withFront, allocateBefore_withFront, recomputeTail_withFront, handOver_withFront,
      barrierTrigger_withFront]

/-- An admission neither reads nor changes the hold list, the intake and the pause. -/
theorem admitRequest_withFront (r : Request) (v : Verdict) :
    (s.withFront hs q p).admitRequest r v = (s.admitRequest r v).withFront hs q p := by
  unfold State.admitRequest
  split
  · rfl
  · rfl
  · exact admitJournaled_withFront ..
  · rfl

theorem admitRequest_front (r : Request) (v : Verdict) : s.admitRequest r v =
    (s.admitRequest r v).withFront s.host.holds s.host.intake s.host.paused :=
  admitRequest_withFront s s.host.holds s.host.intake s.host.paused r v

theorem admitRequest_holds (r : Request) (v : Verdict) : (s.admitRequest r v).host.holds = s.host.holds := by
  rw [admitRequest_front]
  rfl

theorem admitRequest_paused (r : Request) (v : Verdict) : (s.admitRequest r v).host.paused = s.host.paused := by
  rw [admitRequest_front]
  rfl

end

/-! ### One re-evaluation -/

theorem wakeOrder_of_none {s : State} {src : Source} {tag : ReqTag}
    (h : ∀ g ∈ s.host.holds, g.reason ≠ .order src tag) : s.wakeOrder src tag = s := by
  have hmap : (s.host.holds.map fun g => if decide (g.reason = .order src tag) = true then { g with marked := true } else g) =
      s.host.holds :=
    (List.map_congr_left fun g hg => if_neg (by simpa using h g hg)).trans (List.map_id' _)
  unfold State.wakeOrder State.wake
  rw [hmap]
  rfl

section
variable {s : State} {older younger : List Hold} {h : Hold}

theorem reevaluate_short {room : Room} (hr : s.shortage (s.heldVerdict older h.req) = some room) :
    s.reevaluate older h younger =
      s.setHolds (older ++ { h with marked := false, room := some room } :: younger) := by
  simp only [State.reevaluate, hr]

theorem reevaluate_refuse {why : Reason} (hv : s.heldVerdict older h.req = .refuse why) :
    s.reevaluate older h younger =
      ((s.setHolds (older ++ younger)).wakeOrder h.req.source h.req.tag).refuse h.req why := by
  simp only [State.reevaluate, hv, State.shortage]

theorem reevaluate_hold {why : HoldReason} (hv : s.heldVerdict older h.req = .hold why) :
    s.reevaluate older h younger =
      s.setHolds (older ++ { h with marked := false, room := none, reason := why } :: younger) := by
  simp only [State.reevaluate, hv, State.shortage]

/-- An admissible verdict: the request passes, or is journaled. -/
def Verdict.admits : Verdict → Bool
  | .pass | .journal _ => true
  | .refuse _ | .hold _ => false

theorem reevaluate_admit (ha : (s.heldVerdict older h.req).admits = true)
    (hr : s.shortage (s.heldVerdict older h.req) = none) : s.reevaluate older h younger =
      ((s.setHolds (older ++ younger)).wakeOrder h.req.source h.req.tag).admitRequest h.req (s.heldVerdict older h.req) := by
  unfold State.reevaluate
  dsimp only
  rw [hr]
  cases hv : s.heldVerdict older h.req <;> simp_all [Verdict.admits]

/-- The re-evaluated entry stays in its place unmarked, or leaves the list. -/
theorem reevaluate_holds (s : State) (older younger : List Hold) (h : Hold) :
    (∃ h' : Hold, h'.marked = false ∧ (s.reevaluate older h younger).host.holds = older ++ h' :: younger) ∨
      (s.reevaluate older h younger).host.holds =
        ((s.setHolds (older ++ younger)).wakeOrder h.req.source h.req.tag).host.holds := by
  cases hr : s.shortage (s.heldVerdict older h.req) with
  | some room => exact .inl ⟨_, rfl, by rw [reevaluate_short hr]; rfl⟩
  | none =>
    cases hv : s.heldVerdict older h.req with
    | refuse why => exact .inr (by rw [reevaluate_refuse hv]; rfl)
    | hold why => exact .inl ⟨_, rfl, by rw [reevaluate_hold hv]; rfl⟩
    | pass => exact .inr (by rw [reevaluate_admit (by rw [hv]; rfl) hr, admitRequest_holds])
    | journal p => exact .inr (by rw [reevaluate_admit (by rw [hv]; rfl) hr, admitRequest_holds])

/-! ### The pass (R82) -/

theorem reevaluateOldest_of_unmarked (hu : ∀ g ∈ s.host.holds, g.marked = false) : s.reevaluateOldest = s := by
  have hdrop : (s.host.holds.dropWhile fun g => !g.marked) = [] :=
    List.dropWhile_eq_nil_iff.2 fun g hg => by simp [hu g hg]
  simp only [State.reevaluateOldest, hdrop]

theorem reevaluateOldest_of_oldest (hs : s.host.holds = older ++ h :: younger) (hm : h.marked = true)
    (ho : ∀ g ∈ older, g.marked = false) : s.reevaluateOldest = s.reevaluate older h younger := by
  have hpos : ∀ g ∈ older, (!g.marked) = true := fun g hg => by simp [ho g hg]
  have hdrop : (s.host.holds.dropWhile fun g => !g.marked) = h :: younger := by
    rw [hs, List.dropWhile_append_of_pos hpos, List.dropWhile_cons_of_neg (by simp [hm])]
  have htake : (s.host.holds.takeWhile fun g => !g.marked) = older := by
    rw [hs, List.takeWhile_append_of_pos hpos, List.takeWhile_cons_of_neg (by simp [hm]), List.append_nil]
  simp only [State.reevaluateOldest, hdrop, htake]

theorem reevaluatePass_of_unmarked (hu : ∀ g ∈ s.host.holds, g.marked = false) (n : Nat) : s.reevaluatePass n = s := by
  induction n with
  | zero => rfl
  | succ n ih => rw [State.reevaluatePass, reevaluateOldest_of_unmarked hu, ih]

/-- A bound on the re-evaluations a pass can still take: each shortens the list, or clears a mark and sets none. -/
def State.passMeasure (s : State) : Nat :=
  s.host.holds.length * (s.host.holds.length + 1) + s.host.holds.countP (·.marked)

theorem passMeasure_le (s : State) : s.passMeasure ≤ s.host.holds.length * (s.host.holds.length + 2) := by
  have hcount := List.countP_le_length (p := fun g : Hold => g.marked) (l := s.host.holds)
  unfold State.passMeasure
  linarith [hcount]

/-- The oldest marked entry, when there is one, splits the list. -/
theorem oldest_marked (s : State) : (∀ g ∈ s.host.holds, g.marked = false) ∨
    ∃ older h younger, s.host.holds = older ++ h :: younger ∧ h.marked = true ∧ ∀ g ∈ older, g.marked = false := by
  cases hf : s.host.holds.find? (·.marked) with
  | none => exact .inl fun g hg => by simpa using List.find?_eq_none.1 hf g hg
  | some h =>
    obtain ⟨hm, older, younger, hs, ho⟩ := List.find?_eq_some_iff_append.1 hf
    exact .inr ⟨older, h, younger, hs, hm, fun g hg => by simpa using ho g hg⟩

theorem passMeasure_reevaluate (hs : s.host.holds = older ++ h :: younger) (hm : h.marked = true) :
    (s.reevaluate older h younger).passMeasure < s.passMeasure := by
  unfold State.passMeasure
  rw [hs]
  obtain ⟨h', hm', hh⟩ | hh := reevaluate_holds s older younger h <;> rw [hh]
  · simp [List.countP_append, hm, hm']
  · have hcount := List.countP_le_length (p := fun g : Hold => g.marked)
      (l := ((s.setHolds (older ++ younger)).wakeOrder h.req.source h.req.tag).host.holds)
    have hlen : ((s.setHolds (older ++ younger)).wakeOrder h.req.source h.req.tag).host.holds.length =
        older.length + younger.length := by
      simp [State.wakeOrder, State.wake, State.setHolds]
    rw [hlen] at hcount ⊢
    simp only [List.length_append, List.length_cons]
    nlinarith [hcount]

/-- As many re-evaluations as the bound leave no entry marked. -/
theorem reevaluatePass_unmarked (n : Nat) (s : State) (hn : s.passMeasure ≤ n) :
    ∀ g ∈ (s.reevaluatePass n).host.holds, g.marked = false := by
  induction n generalizing s with
  | zero =>
    have hnil : s.host.holds = [] := by
      have hz : s.host.holds.length * (s.host.holds.length + 1) = 0 := by unfold State.passMeasure at hn; omega
      simpa using hz
    simp [State.reevaluatePass, hnil]
  | succ n ih =>
    obtain hu | ⟨older, h, younger, hs, hm, ho⟩ := oldest_marked s
    · rwa [reevaluatePass_of_unmarked hu]
    · rw [State.reevaluatePass, reevaluateOldest_of_oldest hs hm ho]
      have hlt := passMeasure_reevaluate hs hm
      exact ih _ (by omega)

/-! ### One marked entry -/

/-- With one marked entry, on which none waits by ORDER, the pass is its re-evaluation. -/
theorem exec_holdReevaluate (hp : s.power = true) (hs : s.host.holds = older ++ h :: younger) (hm : h.marked = true)
    (hrest : ∀ g ∈ older ++ younger, g.marked = false ∧ g.reason ≠ .order h.req.source h.req.tag) :
    exec .holdReevaluate s = .next (s.reevaluate older h younger) := by
  have hrun : exec .holdReevaluate s =
      .next (s.reevaluatePass (s.host.holds.length * (s.host.holds.length + 2))) :=
    live_of_power hp fun s => s.reevaluatePass (s.host.holds.length * (s.host.holds.length + 2))
  obtain ⟨n, hn⟩ : ∃ n, s.host.holds.length * (s.host.holds.length + 2) = n + 1 :=
    Nat.exists_eq_succ_of_ne_zero (by simp [hs])
  have hgone := wakeOrder_of_none (s := s.setHolds (older ++ younger)) fun g hg => (hrest g hg).2
  have hunmarked : ∀ g ∈ (s.reevaluate older h younger).host.holds, g.marked = false := by
    obtain ⟨h', hm', hh⟩ | hh := reevaluate_holds s older younger h
    · rw [hh]
      intro g hg
      simp only [List.mem_append, List.mem_cons] at hg hrest
      obtain hg | rfl | hg := hg
      · exact (hrest g (.inl hg)).1
      · exact hm'
      · exact (hrest g (.inr hg)).1
    · rw [hh, hgone]
      exact fun g hg => (hrest g hg).1
  rw [hrun, hn, State.reevaluatePass,
    reevaluateOldest_of_oldest hs hm fun g hg => (hrest g (List.mem_append_left _ hg)).1,
    reevaluatePass_of_unmarked hunmarked]

end

/-! ### As though the request had just been taken (R82) -/

theorem decideFront_sound {s : State} {r : Request} {rest : List Intake} (hin : s.host.intake = ⟨r, false⟩ :: rest)
    (hsound : malformed r = false) (hline : (requestLine r.body).isSome = true) :
    s.decideFront = s.settleFront r (s.heldVerdict s.host.holds r) := by
  cases hbody : r.body with
  | mark g kind => simp [hbody, requestLine] at hline
  | _ => simp [State.decideFront, hin, hsound, hbody, State.heldVerdict]

theorem heldVerdict_withFront (s : State) (hs older : List Hold) (q : List Intake) (p : Option Pause) (r : Request) :
    (s.withFront hs q p).heldVerdict older r = s.heldVerdict older r := by
  unfold State.heldVerdict
  split <;> rfl

theorem shortage_withFront (s : State) (hs : List Hold) (q : List Intake) (p : Option Pause) (v : Verdict) :
    (s.withFront hs q p).shortage v = s.shortage v := rfl

section
variable {s : State} {older younger : List Hold} {h : Hold}

/-- The part with the held request at the front of the intake and the older entries alone held. -/
def State.takenBack (s : State) (older : List Hold) (h : Hold) : State :=
  s.withFront older (⟨h.req, false⟩ :: s.host.intake) none

/-- The row of the held request's kind decides it from the front of the intake with the verdict of its re-evaluation. -/
theorem exec_takenBack (hp : s.power = true) (hu : ∀ g ∈ older, g.marked = false) (hsound : malformed h.req = false)
    (hline : (requestLine h.req.body).isSome = true) : exec (admitRow h.req.body) (s.takenBack older h) =
      .next ((s.takenBack older h).settleFront h.req (s.heldVerdict older h.req)) := by
  have hmarked : (s.takenBack older h).holdsMarked = false := by
    simpa [State.holdsMarked, State.takenBack, State.withFront] using hu
  have htakes : (s.takenBack older h).takes := ⟨hp, hmarked, rfl⟩
  have hin : (s.takenBack older h).host.intake = ⟨h.req, false⟩ :: s.host.intake := rfl
  rw [exec_admitRow htakes hin, decideFront_sound hin hsound hline]
  exact congrArg (fun v => Host.Outcome.next ((s.takenBack older h).settleFront h.req v)) (heldVerdict_withFront ..)

/-- The re-evaluation follows the outcome `t` at the front of the intake: short of room, held, or gone. -/
def State.Follows (s t : State) (older younger : List Hold) (h : Hold) : Prop :=
  (∀ room, t.host.paused = some ⟨room, false⟩ → s.reevaluate older h younger =
    s.setHolds (older ++ { h with marked := false, room := some room } :: younger)) ∧
  (∀ x, t.host.holds = older ++ [x] → s.reevaluate older h younger =
    s.setHolds (older ++ { h with marked := false, room := none, reason := x.reason } :: younger)) ∧
  (t.host.paused = none → t.host.holds = older →
    s.reevaluate older h younger = t.withFront (older ++ younger) s.host.intake s.host.paused)

/-- An outcome that pauses: the table's room is short. -/
theorem follows_of_paused {t : State} {room : Room} (hp : t.host.paused = some ⟨room, false⟩) (hh : t.host.holds = older)
    (hr : s.reevaluate older h younger = s.setHolds (older ++ { h with marked := false, room := some room } :: younger)) :
    s.Follows t older younger h := by
  refine ⟨fun room' hp' => ?_, fun x hx => ?_, fun hnone => ?_⟩
  · obtain rfl : room = room' := by simpa [hp] using hp'
    exact hr
  · simp [hh] at hx
  · simp [hp] at hnone

/-- An outcome that holds the request. -/
theorem follows_of_held {t : State} {x : Hold} (hp : t.host.paused = none) (hh : t.host.holds = older ++ [x])
    (hr : s.reevaluate older h younger =
      s.setHolds (older ++ { h with marked := false, room := none, reason := x.reason } :: younger)) :
    s.Follows t older younger h := by
  refine ⟨fun room hp' => ?_, fun x' hx => ?_, fun _ hx => ?_⟩
  · simp [hp] at hp'
  · obtain rfl : x = x' := by simpa [hh] using hx
    exact hr
  · simp [hh] at hx

/-- An outcome that answers or admits the request. -/
theorem follows_of_gone {t : State} (hp : t.host.paused = none) (hh : t.host.holds = older)
    (hr : s.reevaluate older h younger = t.withFront (older ++ younger) s.host.intake s.host.paused) :
    s.Follows t older younger h := by
  refine ⟨fun room hp' => ?_, fun x hx => ?_, fun _ _ => hr⟩
  · simp [hp] at hp'
  · simp [hh] at hx

theorem settleFront_short {r : Request} {v : Verdict} {room : Room} (hr : s.shortage v = some room) :
    s.settleFront r v = s.pauseFor room := by
  simp only [State.settleFront, hr]

theorem settleFront_admit {r : Request} {v : Verdict} (ha : v.admits = true) (hr : s.shortage v = none) :
    s.settleFront r v = s.takeFront.admitRequest r v := by
  cases v <;> simp_all [State.settleFront, Verdict.admits]

theorem placeHold_of_room {r : Request} {why : HoldReason} (hlen : s.host.holds.length < 8) :
    s.placeHold r why = s.setHolds (s.host.holds ++ [⟨r, why, s.now + s.link.policy.holdLimit * 10, none, false⟩]) :=
  if_pos hlen

/-- The re-evaluation does what the row of the request's kind does at the front of the intake. -/
theorem reevaluate_follows (hlen : older.length < 8)
    (hrest : ∀ g ∈ older ++ younger, g.reason ≠ .order h.req.source h.req.tag) :
    s.Follows ((s.takenBack older h).settleFront h.req (s.heldVerdict older h.req)) older younger h := by
  have hgone := wakeOrder_of_none (s := s.setHolds (older ++ younger)) hrest
  have hshort : (s.takenBack older h).shortage (s.heldVerdict older h.req) = s.shortage (s.heldVerdict older h.req) :=
    shortage_withFront ..
  cases hr : s.shortage (s.heldVerdict older h.req) with
  | some room =>
    rw [settleFront_short (hshort.trans hr)]
    exact follows_of_paused rfl rfl (reevaluate_short hr)
  | none =>
    have admitted (ha : (s.heldVerdict older h.req).admits = true) :
        s.Follows ((s.takenBack older h).settleFront h.req (s.heldVerdict older h.req)) older younger h := by
      rw [settleFront_admit ha (hshort.trans hr)]
      refine follows_of_gone (admitRequest_paused ..) (admitRequest_holds ..) ?_
      rw [reevaluate_admit ha hr, hgone, ← admitRequest_withFront]
      rfl
    cases hv : s.heldVerdict older h.req with
    | refuse why => exact follows_of_gone rfl rfl (by rw [reevaluate_refuse hv, hgone]; rfl)
    | hold why =>
      have hplaced : (s.takenBack older h).settleFront h.req (.hold why) = _ :=
        placeHold_of_room (s := (s.takenBack older h).takeFront) hlen
      rw [hplaced]
      exact follows_of_held rfl rfl (reevaluate_hold hv)
    | pass => exact hv ▸ admitted (by rw [hv]; rfl)
    | journal p => exact hv ▸ admitted (by rw [hv]; rfl)

end

/-! ### Short of room (R27, R62) -/

theorem inflightRoom_of_lt {s : State} (h : s.host.inflight.length < 32) : s.inflightRoom = true := decide_eq_true h

/-- With a full in-flight table every admissible request is short of an entry, whatever else it needs (log 14). -/
theorem shortage_full {s : State} {v : Verdict} (h : 32 ≤ s.host.inflight.length) (ha : v.admits = true) :
    s.shortage v = some .inFlight := by
  have hroom : s.inflightRoom = false := decide_eq_false (not_lt.2 h)
  cases v <;> simp_all [State.shortage, Verdict.admits]

theorem shortage_pass {s : State} (h : s.host.inflight.length < 32) : s.shortage .pass = none := by
  simp [State.shortage, inflightRoom_of_lt h]

theorem placesFor_pos (s : State) (count : Nat) : 0 < s.placesFor count := by
  unfold State.placesFor
  split <;> omega

/-- Settles O32: the pass by its measure, and the single entry by the outcome at the front of the intake. -/
theorem heldReevaluated : Obligations.HeldReevaluated := by
  refine ⟨fun s hp => ⟨_, live_of_power hp fun s => s.reevaluatePass (s.host.holds.length * (s.host.holds.length + 2)),
    reevaluatePass_unmarked _ s (passMeasure_le s)⟩, fun s older younger h hp hs hm hrest => ?_⟩
  dsimp only
  rw [exec_holdReevaluate hp hs hm hrest]
  have horder : ∀ g ∈ older ++ younger, g.reason ≠ .order h.req.source h.req.tag := fun g hg => (hrest g hg).2
  have hgone := wakeOrder_of_none (s := s.setHolds (older ++ younger)) horder
  refine ⟨fun hsound hline hlen => ?_, fun why hv => ?_, fun why hv => ?_, fun hv => ⟨fun hfull => ?_,
    fun a len hbody hroom => ?_, fun l m d g hbody hroom => ?_⟩, fun p hv => ⟨fun hfull => ?_,
    fun first count hspan hroom hplaces => ?_⟩⟩
  · obtain ⟨hshort, hheld, hleft⟩ := reevaluate_follows (s := s) hlen horder
    exact ⟨_, exec_takenBack hp (fun g hg => (hrest g (List.mem_append_left _ hg)).1) hsound hline,
      fun room hroom => congrArg _ (hshort room hroom), fun x hx => congrArg _ (hheld x hx),
      fun hpause hholds => congrArg _ (hleft hpause hholds)⟩
  · rw [reevaluate_refuse hv, hgone]
    rfl
  · exact congrArg _ (reevaluate_hold hv)
  · exact congrArg _ (reevaluate_short (shortage_full hfull (by rw [hv]; rfl)))
  · rw [reevaluate_admit (by rw [hv]; rfl) (by rw [hv]; exact shortage_pass hroom), hgone, hv]
    simp only [State.admitRequest, hbody]
    rfl
  · rw [reevaluate_admit (by rw [hv]; rfl) (by rw [hv]; exact shortage_pass hroom), hgone, hv]
    simp only [State.admitRequest, hbody]
    rfl
  · exact congrArg _ (reevaluate_short (shortage_full hfull (by rw [hv]; rfl)))
  · have hshort : ¬ s.placesFor count ≤ s.admissionPlaces := by
      have hplace : 0 < s.placesFor count := placesFor_pos s count
      change 8 < s.placesFor count + s.log.window.length + s.log.due.length at hplaces
      unfold State.admissionPlaces Config.windowDepth
      omega
    exact congrArg _ (reevaluate_short (by simp [hv, State.shortage, inflightRoom_of_lt hroom, hspan, hshort]))

end Sys2Proof.Machine
end

section
/-! The answers of data writes (R68, R72), with damage and the closing step (R46, R49, R96, R98); and the timebase (R47). -/

namespace Sys2Proof.Machine

/-! ### The answer of a data write (R46, R49, R68, R72) -/

section
variable {s : State} {t : MTag} {src : Source} {tag : ReqTag} (hp : s.power = true) (h : s.awaits t (.dataWrite src tag))
include hp h

theorem exec_dataWriteDone :
    exec (.dataWriteDone t) s = .next ((s.withAnswer t (.done [])).dataDone src tag) := by
  change execDataWriteDone t s = _
  refine (live_takeAnswer hp h _ (fun _ => Ref.isDataWrite) _ rfl nofun nofun).trans ?_
  rw [h.2]

theorem exec_dataWriteFailed (landed : BitVec 96) :
    exec (.dataWriteFailed t landed) s = .next ((s.withAnswer t (.error landed)).dataFailed src tag) := by
  change execDataWriteFailed t landed s = _
  refine (live_takeAnswer hp h _ (fun _ => Ref.isDataWrite) _ rfl nofun nofun).trans ?_
  rw [h.2]

end

@[simp] theorem State.withAnswer_findInflight (s : State) (t : MTag) (a : MemAnswer) (src : Source) (tag : ReqTag) :
    (s.withAnswer t a).findInflight src tag = s.findInflight src tag := by
  simp only [State.findInflight, State.withAnswer_host]

section
variable {s : State} {src : Source} {tag : ReqTag} {e : Inflight} {l : Nat} {mask : BitVec 64} {d : List Byte} {i : SlotNo}
  {r : Option RecordSpan} (hf : s.findInflight src tag = some e) (hw : e.work = .journaled l mask d i r)
include hf hw

theorem dataDone_journaled : s.dataDone src tag = s.answerWrite src tag i (.done []) := by
  simp only [State.dataDone, hf, hw]

theorem dataFailed_journaled : s.dataFailed src tag = (s.damage i).answerWrite src tag i (.failed .memError) := by
  simp only [State.dataFailed, hf, hw]

end

/-- Settles O46: the answer is taken, the group of a failed write is damaged, and the write is answered with the closing step
of its slot. -/
theorem dataWriteAnswered : Obligations.DataWriteAnswered := by
  intro s t landed src tag i l mask d r st hp hwf hawaits hfind
  have hfind' : ∀ a, (s.withAnswer t a).findInflight src tag = some ⟨src, tag, .journaled l mask d i r, st⟩ :=
    fun a => (State.withAnswer_findInflight s t a src tag).trans hfind
  constructor
  · refine ⟨_, _, exec_dataWriteDone hp hawaits, answerTaken_withAnswer fun _ => hwf, ?_⟩
    rw [dataDone_journaled (hfind' _) rfl]
    exact answerWrite_cases _ _ _ _ _
  · refine ⟨_, _, _, exec_dataWriteFailed hp hawaits landed, answerTaken_withAnswer fun _ => hwf,
      slotDamaged_damage _ i, ?_⟩
    rw [dataFailed_journaled (hfind' _) rfl]
    exact answerWrite_cases _ _ _ _ _

/-! ### The timebase (R47) -/

theorem step_of_empty {s : State} (hp : s.power = true) (hq : s.pending = []) : step s = .next s.tick := by
  unfold step
  rw [hq]
  exact live_of_power hp State.tick

theorem tick_running {s : State} (hb : s.bridge = .running) :
    s.tick = { s with now := s.now + 1, grp := { s.grp with slots := s.grp.slots.map GroupSlot.tick } } := if_pos hb

theorem tick_elsewhere {s : State} (hb : s.bridge ≠ .running) : s.tick = { s with now := s.now + 1 } := if_neg hb

/-- Idle deadlines run in RUNNING only. -/
theorem slot_tick (s : State) (i : SlotNo) :
    s.tick.slot i = if s.bridge = .running then (s.slot i).tick else s.slot i := by
  by_cases hb : s.bridge = .running
  · simp [tick_running hb, hb, State.slot]
  · simp [tick_elsewhere hb, hb, State.slot]

/-- Nothing but the time and the slots changes. -/
theorem tick_eq (s : State) : s.tick = { s with now := s.now + 1, grp := { s.grp with slots := s.tick.grp.slots } } := by
  by_cases hb : s.bridge = .running
  · rw [tick_running hb]
  · rw [tick_elsewhere hb]

/-- Settles O2: the empty queue lets the part tick, and an OPEN slot's deadline falls in RUNNING. -/
theorem idleStepTicks : Obligations.IdleStepTicks := by
  intro s hp hq
  refine ⟨s.tick, step_of_empty hp hq, tick_eq s, fun i => ?_⟩
  rw [slot_tick, GroupSlot.tick]
  by_cases hb : s.bridge = .running
  · simp only [hb, if_true, true_and]
  · simp only [hb, if_false, false_and]

end Sys2Proof.Machine
end

section
/-! STOP: the check, the paused request decided again in GATED, and the stop anchor with the anchor write it may follow (R62,
R144). -/

namespace Sys2Proof.Machine

/-! ### The bridge enters GATED at STOP -/

/-- In GATED a front request decided again is refused or passes (R34, R37), so the log engine sees nothing of it. -/
theorem redecided_decideFront_gated {s : State} (h : s.bridge = .gated) : Redecided s s.decideFront := by
  unfold State.decideFront
  split
  · exact Redecided.refl s
  · split
    · exact redecided_takeFront_refuse _ _ _
    · split
      case h_1 => rw [readVerdict_idle (.inl h)]; exact redecided_pass _ _
      case h_2 => rw [writeVerdict_gated (.inl h)]; exact redecided_takeFront_refuse _ _ _
      case h_3 => rw [markVerdict_gated (.inl h)]; exact redecided_takeFront_refuse _ _ _

theorem redecided_redecidePaused_gated {s : State} (h : s.bridge = .gated) : Redecided s s.redecidePaused := by
  unfold State.redecidePaused
  split
  · exact redecided_decideFront_gated h
  · exact Redecided.refl s

theorem Redecided.log {s t : State} (h : Redecided s t) : t.log = s.log := (congrArg State.log h.eq :)

theorem Redecided.logQ {s t : State} (h : Redecided s t) : t.mport.logQ = s.mport.logQ :=
  (congrArg (fun x : State => x.mport.logQ) h.eq :)

/-- STOP is executing and the bridge is GATED, before the paused request is decided again: a follow-up and a waiting retry
are dropped (R144). -/
def State.gatedAtStop (s : State) : State := { (s.withCommand 0x0A []).dropRetry with bridge := .gated }

/-- An anchor write outstanding at STOP stands; a waiting retry does not. -/
theorem gatedAtStop_writing_iff (s : State) (c : Copy) (a : Anchor) (u : AnchorUse) :
    s.gatedAtStop.log.anchorOp = .writing c a u ↔ s.log.anchorOp = .writing c a u := by
  change (State.dropRetry _).log.anchorOp = _ ↔ _
  unfold State.dropRetry State.withCommand
  cases s.log.anchorOp <;> simp

/-! ### The command -/

theorem stopTaken_iff (s : State) : s.stopTaken = true ↔
    s.bridge = .running ∧ (∀ i, (s.slot i).state = .free) ∧ s.host.holds = [] ∧ s.host.inflight = [] := by
  simp [State.stopTaken, slotsInUse_eq_zero_iff, and_assoc]

theorem exec_stop {s : State} (h : s.linkReady) : exec .stop s =
    .next (if s.stopTaken then s.gatedAtStop.redecidePaused.stopAnchor else s.answerLink .busy []) :=
  live_takeCommand h 0x0A [] State.cmdStop

theorem stopAnchor_outstanding {s : State} {c : Copy} {a : Anchor} {u : AnchorUse} (h : s.log.anchorOp = .writing c a u) :
    s.stopAnchor = { s with log := { s.log with anchorOp := .writing c a .beforeStop } } := by
  unfold State.stopAnchor
  rw [h]

theorem stopAnchor_launched {s : State} (h : ∀ c a u, s.log.anchorOp ≠ .writing c a u) :
    s.stopAnchor = s.launchAnchor .clean s.log.head .stop := by
  unfold State.stopAnchor
  split
  case h_1 c a u hop => exact absurd hop (h c a u)
  all_goals rfl

/-- The stop anchor that STOP hands over at once is built from the log before the command (R20, R144). -/
theorem launchAnchor_redecided {s r : State} (h : Redecided s.gatedAtStop r) :
    let a : Anchor := ⟨(s.log.newest.map (·.serial)).getD 0 + 1, s.log.gen, .clean, s.geo.exponent, s.log.head⟩
    r.launchAnchor .clean r.log.head .stop = { r with
      log := { s.gatedAtStop.log with anchorOp := .writing s.nextCopy a .stop }
      mport := { r.mport with logQ := s.mport.logQ ++
        [⟨.anchorWrite, true, s.geo.anchorAddr s.nextCopy, 64, spanMask 96 0 64, a.bytes⟩] } } := by
  have hcopy : r.nextCopy = s.nextCopy := nextCopy_congr (congrArg LogSide.newest h.log :)
  have hgeo : r.geo = s.geo := geo_congr (congrArg LogSide.geometry h.log :)
  rw [launchAnchor_eq, hcopy, hgeo, h.log, h.logQ]
  rfl

/-! ### The answers -/

section
variable {s : State} {c : Copy} {a : Anchor}

theorem anchorAnswered_stop (h : s.log.anchorOp = .writing c a .stop) (failed : Bool) :
    s.anchorAnswered failed = s.stopAnswered c a failed := by
  delta State.anchorAnswered; rw [h]

theorem anchorAnswered_beforeStop (h : s.log.anchorOp = .writing c a .beforeStop) (failed : Bool) :
    s.anchorAnswered failed = s.beforeStopAnswered c a failed := by
  delta State.anchorAnswered; rw [h]

theorem exec_stopAnchorAnswered {t : MTag} {use : AnchorUse} (hp : s.power = true) (h : s.awaits t .anchorWrite)
    (hop : s.log.anchorOp = .writing c a use) (ans : MemAnswer) (hu : use = .beforeStop ∨ use = .stop) :
    exec (.stopAnchorAnswered t ans) s = .next ((s.withAnswer t ans).anchorAnswered (isErrorAnswer ans)) := by
  change execStopAnchorAnswered t ans s = _
  exact live_takeAnchorAnswer hp h hop _ _ (by simpa using hu) _

end

/-- The stop anchor that follows an adopted anchor: the other copy, one serial above (R20, R144). -/
theorem launchStopAnchor_adopted {m n : State} {c : Copy} {a : Anchor} (h : AnchorAdopted m n c a) :
    let after : Anchor := ⟨a.serial + 1, m.log.gen, .clean, m.geo.exponent, m.log.head⟩
    n.launchStopAnchor = { n with
      log := { n.log with anchorOp := .writing c.other after .stop }
      mport := { n.mport with logQ := m.mport.logQ ++
        [⟨.anchorWrite, true, m.geo.anchorAddr c.other, 64, spanMask 96 0 64, after.bytes⟩] } } := by
  have hlog : n.log = _ := (congrArg State.log h.eq :)
  have hnewest : n.log.newest = some ⟨c, a.serial, a.state, a.tail⟩ := by rw [hlog]
  have hcopy : n.nextCopy = c.other := by unfold State.nextCopy; rw [hnewest]
  have hgeo : n.geo = m.geo := geo_congr (by rw [hlog])
  have hgen : n.log.gen = m.log.gen := by rw [hlog]
  have hhead : n.log.head = m.log.head := by rw [hlog]
  unfold State.launchStopAnchor
  rw [launchAnchor_eq, hcopy, hgeo, hnewest, hgen, hhead, h.mport]
  rfl

/-- Settles O60: the paused request is decided again before the stop anchor and leaves the log as it was, and each answer
takes its branch. -/
theorem stopTaken : Obligations.StopTaken := by
  intro s hp taken stopAnchor write gated
  refine ⟨fun hl hn => ?_, fun hl ht => ?_,
    fun t c a raced landed hwf ha => ⟨fun hop => ⟨?_, ?_⟩, fun hop => ⟨?_, ?_⟩⟩⟩
  · rw [exec_stop ⟨hp, hl⟩, if_neg ((stopTaken_iff s).not.2 hn)]
  · have hr : Redecided s.gatedAtStop s.gatedAtStop.redecidePaused := redecided_redecidePaused_gated rfl
    refine ⟨s.gatedAtStop.redecidePaused, pausedRedecided_redecidePaused _, fun hno => ?_, fun c a u hop => ?_⟩
    all_goals rw [exec_stop ⟨hp, hl⟩, if_pos ((stopTaken_iff s).2 ht)]
    · rw [stopAnchor_launched fun c a u => hr.log ▸ (gatedAtStop_writing_iff s c a u).not.2 (hno c a u),
        launchAnchor_redecided hr]
      rfl
    · rw [stopAnchor_outstanding (hr.log ▸ (gatedAtStop_writing_iff s c a u).2 hop), hr.log]
      rfl
  · set m := s.withAnswer t (.done raced)
    refine ⟨m, m.adoptAnchor c a, answerTaken_withAnswer fun _ => hwf, anchorAdopted_adoptAnchor m c a, ?_⟩
    rw [exec_stopAnchorAnswered hp ha hop _ (.inr rfl), anchorAnswered_stop (s := m) hop]
    rfl
  · set m := s.withAnswer t (.error landed)
    refine ⟨m, answerTaken_withAnswer fun _ => hwf, ?_⟩
    rw [exec_stopAnchorAnswered hp ha hop _ (.inr rfl), anchorAnswered_stop (s := m) hop]
    rfl
  · set m := s.withAnswer t (.done raced)
    have had := anchorAdopted_adoptAnchor m c a
    refine ⟨m, m.adoptAnchor c a, answerTaken_withAnswer fun _ => hwf, had, ?_⟩
    rw [exec_stopAnchorAnswered hp ha hop _ (.inl rfl), anchorAnswered_beforeStop (s := m) hop]
    exact congrArg _ (launchStopAnchor_adopted had :)
  · set m := s.withAnswer t (.error landed)
    refine ⟨m, answerTaken_withAnswer fun _ => hwf, ?_⟩
    rw [exec_stopAnchorAnswered hp ha hop _ (.inl rfl), anchorAnswered_beforeStop (s := m) hop]
    rfl

end Sys2Proof.Machine
end

section
/-! HOLD_TIMEOUT: the entry whose deadline is reached leaves the hold list refused, which wakes the entries that wait on it
by ORDER (R80, R81, R84). -/

namespace Sys2Proof.Machine

theorem expired_iff (h : Hold) (src : Source) (tag : ReqTag) (now : Nat) :
    h.expired src tag now = true ↔ h.req.source = src ∧ h.req.tag = tag ∧ h.deadline ≤ now := by
  simp [Hold.expired, and_assoc]

theorem wakeOrder_eq (s : State) (src : Source) (tag : ReqTag) : s.wakeOrder src tag =
    s.setHolds (s.host.holds.map fun g => if g.reason = .order src tag then { g with marked := true } else g) := by
  simp only [State.wakeOrder, State.wake, decide_eq_true_eq]

section
variable {s : State} {src : Source} {tag : ReqTag}

theorem holdTimeout_of_none (hnone : ∀ h ∈ s.host.holds, ¬ h.expired src tag s.now = true) :
    s.holdTimeout src tag = s := by
  simp only [State.holdTimeout, List.find?_eq_none.2 hnone]

/-- The first entry of the source and tag whose deadline is reached is the one refused. -/
theorem holdTimeout_of_first {pre post : List Hold} {h : Hold} (hs : s.host.holds = pre ++ h :: post)
    (hexp : h.expired src tag s.now = true) (hpre : ∀ g ∈ pre, ¬ g.expired src tag s.now = true) :
    s.holdTimeout src tag = (((s.setHolds (pre ++ post)).refuse h.req .holdTimeout).count fun c =>
      { c with holdTimeouts := satAdd c.holdTimeouts 1 }).wakeOrder src tag := by
  have hfind : (s.host.holds.find? fun g => g.expired src tag s.now) = some h :=
    List.find?_eq_some_iff_append.2 ⟨hexp, pre, post, hs, fun g hg => by simpa using hpre g hg⟩
  have herase : (s.host.holds.eraseP fun g => g.expired src tag s.now) = pre ++ post := by
    rw [hs, eraseP_first hpre hexp]
  simp only [State.holdTimeout, hfind, herase]

end

/-- Settles O33: the row finds no entry whose deadline is reached, or refuses the first one and wakes the entries that
wait on it. -/
theorem holdTimeout : Obligations.HoldTimeout := by
  intro s src tag hp expired
  have hrun : exec (.holdTimeout src tag) s = .next (s.holdTimeout src tag) :=
    live_of_power hp fun s => s.holdTimeout src tag
  have hiff : ∀ h : Hold, h.expired src tag s.now = true ↔ expired h := fun h => expired_iff h src tag s.now
  rw [hrun]
  refine ⟨fun hnone => ?_, fun pre h post hs hexp hpre => ?_⟩
  · rw [holdTimeout_of_none fun h hh => (hiff h).not.2 (hnone h hh)]
  · have hdue := (hiff h).2 hexp
    obtain ⟨rfl, rfl, -⟩ := hexp
    rw [holdTimeout_of_first hs hdue fun g hg => (hiff g).not.2 (hpre g hg), wakeOrder_eq]
    rfl

end Sys2Proof.Machine
end

section
/-! How an OPEN slot is made to close, COMMIT marks apart: ABANDON marks by the slot's state (R92), idle deadlines (R93), and
the management commands ABANDON_GROUP (R95, R157) and RELEASE_BROKEN (R107, R157). -/

namespace Sys2Proof.Machine

/-! ### ABANDON (R92) -/

/-- The front request leaves the intake for the in-flight table; a pause ends (R27). -/
theorem takeFront_enterFlight {s : State} {q : Intake} {rest : List Intake} (hin : s.host.intake = q :: rest)
    (e : Inflight) : s.takeFront.enterFlight e = { s with host := { s.host with
      intake := rest, paused := none, inflight := s.host.inflight ++ [e] } } := by
  simp only [State.takeFront, State.enterFlight, hin, List.tail_cons]

section
variable {s : State} {src : Source} {g : GroupNo} {i : SlotNo} (hb : s.bridge = .running)
  (hf : s.findSlot ⟨src, g⟩ = some i)
include hb hf

theorem markVerdict_abandon_opened (h : (s.slot i).state = .opened) :
    s.markVerdict src g .abandon = .close i .rollbackWait .abandon := by
  simp only [State.markVerdict, hb, State.abandonVerdict, hf, h]

theorem markVerdict_abandon_committing (h : (s.slot i).state = .committing) :
    s.markVerdict src g .abandon = .refuse .tooLate := by
  simp only [State.markVerdict, hb, State.abandonVerdict, hf, h]

theorem markVerdict_abandon_broken (h : (s.slot i).state = .broken) : s.markVerdict src g .abandon = .broken := by
  simp only [State.markVerdict, hb, State.abandonVerdict, hf, h]

/-- A slot that rolls back takes an ABANDON as its waiter when it has none (R92). -/
theorem markVerdict_abandon_back (h : (s.slot i).state = .rollbackWait ∨ (s.slot i).state = .rollingBack) :
    s.markVerdict src g .abandon = if (s.slot i).waiter = none then .join i else .refuse .groupClosing := by
  rcases h with h | h <;>
    simp only [State.markVerdict, hb, State.abandonVerdict, hf, h, Option.isNone_iff_eq_none]

end

/-- A MARK answered FAILED with BROKEN as it is admitted: its entry only waits for the response to be sent (R30, R92). -/
theorem answerAdmitted_entered {s : State} {q : Intake} {rest : List Intake} (hin : s.host.intake = q :: rest) (src : Source)
    (tag : ReqTag) (work : Work) (a : Answer) (hnew : ∀ e ∈ s.host.inflight, ¬ (e.source = src ∧ e.tag = tag)) :
    (s.takeFront.enterFlight ⟨src, tag, work, .waiting⟩).answerAdmitted src tag a = { s with host := { s.host with
      intake := rest
      paused := none
      inflight := s.host.inflight ++ [⟨src, tag, work, .done⟩]
      responses := s.host.responses ++ [⟨src, tag, a, true⟩] } } := by
  have hold : (s.host.inflight.map fun e => if e.source = src ∧ e.tag = tag then { e with stage := .done } else e) =
      s.host.inflight := (List.map_congr_left fun e he => if_neg (hnew e he)).trans (List.map_id' _)
  rw [takeFront_enterFlight hin, answerAdmitted_eq]
  simp [hold]

/-- Settles O28: the verdict by the slot's state, and the room in the in-flight table. -/
theorem abandonMark : Obligations.AbandonMark := by
  intro s src tag g rest i
  dsimp only
  intro hfront hg hb hf
  have hin := hfront.2
  have hrun : exec .markAbandon s = _ := exec_admitMark hfront hg nofun
  rw [hrun, settleMark_eq hin]
  have htaken := takeFront_enterFlight hin ⟨src, tag, .mark g .abandon, .waiting⟩
  refine ⟨fun ho hroom => ?_, fun hback hw hroom => ?_, fun hback hw => ?_, fun hc => ?_, fun hk hroom hnew => ?_,
    fun hadm hfull => ?_⟩
  · rw [markVerdict_abandon_opened hb hf ho]
    simp only [if_pos hroom]
    refine ⟨_, congrArg _ (congrArg (State.enterClosing · i _ _ _) htaken), slotCloses_enterClosing ?_ (.inr rfl) _ _⟩
    simp [hb]
  · rw [markVerdict_abandon_back hb hf hback, if_pos hw, ← htaken]
    simp only [if_pos hroom]
    rfl
  · rw [markVerdict_abandon_back hb hf hback, if_neg hw]
  · rw [markVerdict_abandon_committing hb hf hc]
  · rw [markVerdict_abandon_broken hb hf hk]
    simp only [if_pos hroom]
    exact congrArg _ (answerAdmitted_entered hin src tag _ _ hnew)
  · rcases hadm with ho | ⟨hback, hw⟩ | hk
    · rw [markVerdict_abandon_opened hb hf ho]
      exact congrArg _ (if_neg hfull)
    · rw [markVerdict_abandon_back hb hf hback, if_pos hw]
      exact congrArg _ (if_neg hfull)
    · rw [markVerdict_abandon_broken hb hf hk]
      exact congrArg _ (if_neg hfull)

/-! ### Idle deadlines (R93) -/

/-- An expired idle deadline closes its OPEN slot by the damaged flag and the idle action in force (R93). -/
theorem expireIdle_eq {s : State} {i : SlotNo} (hb : s.bridge = .running) (ho : (s.slot i).state = .opened)
    (hi : (s.slot i).idle = some 0) : s.expireIdle i =
      if (s.slot i).damaged = true then s.enterClosing i .rollbackWait .damaged none
      else if s.link.policy.idleAction = .commit then s.enterClosing i .committing .idle none
      else s.enterClosing i .rollbackWait .idle none := by
  simp only [State.expireIdle, hb, ho, hi, and_self, if_true]
  cases s.link.policy.idleAction <;> rfl

/-- Settles O29: each clause takes its branch, and the slot closes as every OPEN slot does. -/
theorem idleExpiry : Obligations.IdleExpiry := by
  intro s i hp hb ho hi
  have hrun : exec (.idleExpiry i) s = .next (s.expireIdle i) := live_of_power hp fun s => s.expireIdle i
  have hnf : s.bridge ≠ .faulted := by simp [hb]
  refine ⟨_, hrun, fun hd ha => ?_, fun hd ha => ?_, fun hd => ?_⟩ <;>
    rw [expireIdle_eq hb ho hi]
  · rw [if_neg (by simp [hd]), if_pos ha]
    exact slotCloses_enterClosing hnf (.inl ⟨rfl, hd⟩) _ _
  · rw [if_neg (by simp [hd]), if_neg (by simp [ha])]
    exact slotCloses_enterClosing hnf (.inr rfl) _ _
  · rw [if_pos hd]
    exact slotCloses_enterClosing hnf (.inr rfl) _ _

/-! ### ABANDON_GROUP and RELEASE_BROKEN (R95, R107, R157) -/

theorem decodeKey_outOfRange {a b : Nat} (h : ¬ (a < 8 ∧ 1 ≤ b ∧ b < 16)) : decodeKey a b = none := dif_neg h

/-- A key of a group in range is named by its two numbers (R157). -/
theorem decodeKey_of_key {k : Key} (h : k.group ≠ 0) : decodeKey k.source.val k.group.val = some k :=
  dif_pos ⟨k.source.isLt, Nat.one_le_iff_ne_zero.2 fun h0 => h (Fin.ext h0), k.group.isLt⟩

section
variable {s : State} {k : Key} (hg : k.group ≠ 0) (hl : s.link.lock.val < 3)
include hg hl

/-- ABANDON_GROUP of a group in range, at a lock level that lets it pass, by its checks (R95, R157). -/
theorem cmdAbandonGroup_cases :
    (s.bridge ≠ .running → s.cmdAbandonGroup k.source.val k.group.val = s.answerLink .state []) ∧
    (s.bridge = .running → s.findSlot k = none →
      s.cmdAbandonGroup k.source.val k.group.val = s.answerLink .notFound []) ∧
    ∀ i, s.bridge = .running → s.findSlot k = some i → s.cmdAbandonGroup k.source.val k.group.val =
      if (s.slot i).state = .opened then (s.enterClosing i .rollbackWait .management none).answerLink .ok []
      else s.answerLink .state [] := by
  have hlock : s.lockedAt 3 = false := decide_eq_false (Nat.not_le.2 hl)
  refine ⟨fun hb => ?_, fun hb hn => ?_, fun i hb hf => ?_⟩
  · simp [State.cmdAbandonGroup, decodeKey_of_key hg, hlock, hb, State.deny]
  · simp [State.cmdAbandonGroup, decodeKey_of_key hg, hlock, hb, hn, State.deny]
  · simp [State.cmdAbandonGroup, decodeKey_of_key hg, hlock, hb, hf, State.deny]

/-- RELEASE_BROKEN of a group in range, at a lock level that lets it pass, by its checks (R107, R157). -/
theorem cmdReleaseBroken_cases :
    (s.bridge ≠ .running → s.cmdReleaseBroken k.source.val k.group.val = s.answerLink .state []) ∧
    (s.bridge = .running → s.findSlot k = none →
      s.cmdReleaseBroken k.source.val k.group.val = s.answerLink .notFound []) ∧
    ∀ i, s.bridge = .running → s.findSlot k = some i → s.cmdReleaseBroken k.source.val k.group.val =
      if (s.slot i).state = .broken then s.requestClosing i .unrestored else s.answerLink .state [] := by
  have hlock : s.lockedAt 3 = false := decide_eq_false (Nat.not_le.2 hl)
  refine ⟨fun hb => ?_, fun hb hn => ?_, fun i hb hf => ?_⟩
  · simp [State.cmdReleaseBroken, decodeKey_of_key hg, hlock, hb, State.deny]
  · simp [State.cmdReleaseBroken, decodeKey_of_key hg, hlock, hb, hn, State.deny]
  · simp [State.cmdReleaseBroken, decodeKey_of_key hg, hlock, hb, hf, State.deny]

end

section
variable {s : State} (h : s.linkReady) (a b : Nat)
include h

theorem exec_abandonGroup : exec (.abandonGroup a b) s =
    .next ((s.withCommand 0x0C (leBytes 1 a ++ leBytes 1 b)).cmdAbandonGroup a b) := live_takeCommand h _ _ _

theorem exec_releaseBroken : exec (.releaseBroken a b) s =
    .next ((s.withCommand 0x0D (leBytes 1 a ++ leBytes 1 b)).cmdReleaseBroken a b) := live_takeCommand h _ _ _

end

/-- A slot closes whatever the management link does: its state may be replaced before and after alike. -/
theorem SlotCloses.withLink {s t : State} {i : SlotNo} {st : SlotState} {cause : Cause} {waiter : Option Waiter}
    (h : SlotCloses s t i st cause waiter) (l : Link) :
    SlotCloses { s with link := l } { t with link := l } i st cause waiter := by
  obtain ⟨hslot, hother, hgrp, hqueue, hlog, hstands, hhost, heq⟩ := h
  exact ⟨hslot, hother, hgrp, hqueue, hlog, hstands, hhost, congrArg (fun x : State => { x with link := l }) heq⟩

/-- A slot that a command closes: the command is answered after it closes, which is the same as before (R95). -/
theorem SlotCloses.answerLink {s t : State} {i : SlotNo} {st : SlotState} {cause : Cause} {waiter : Option Waiter}
    (h : SlotCloses s t i st cause waiter) (status : Status) (data : List Byte) :
    SlotCloses (s.answerLink status data) (t.answerLink status data) i st cause waiter := by
  have hlink : t.link = s.link := by
    obtain ⟨-, -, -, -, -, -, -, heq⟩ := h
    exact (congrArg State.link heq :)
  unfold State.answerLink
  rw [hlink]
  exact h.withLink _

/-- Settles O30: both commands take their checks in the order of R152, and each clause takes its branch. -/
theorem groupCommands : Obligations.GroupCommands := by
  intro s a b h
  rw [exec_abandonGroup h, exec_releaseBroken h]
  refine ⟨fun hr => ?_, ?_⟩
  · rw [State.cmdAbandonGroup, State.cmdReleaseBroken, decodeKey_outOfRange hr]
    exact ⟨rfl, rfl⟩
  · rintro k rfl rfl hg hl
    set params := leBytes 1 k.source.val ++ leBytes 1 k.group.val
    obtain ⟨hastate, hanone, haslot⟩ := cmdAbandonGroup_cases (s := s.withCommand 0x0C params) hg hl
    obtain ⟨hrstate, hrnone, hrslot⟩ := cmdReleaseBroken_cases (s := s.withCommand 0x0D params) hg hl
    refine ⟨fun hb => ?_, fun hb hn => ?_, fun i hb hf => ?_⟩
    · rw [hastate hb, hrstate hb]
      exact ⟨rfl, rfl⟩
    · rw [hanone hb hn, hrnone hb hn]
      exact ⟨rfl, rfl⟩
    · rw [haslot i hb hf, hrslot i hb hf]
      have hcloses : SlotCloses (s.withCommand 0x0C params) _ i .rollbackWait .management none :=
        slotCloses_enterClosing (s := s.withCommand 0x0C params) (hb.trans_ne nofun) (.inr rfl) .management none
      refine ⟨fun ho => ⟨_, congrArg _ (if_pos ho), hcloses.answerLink .ok []⟩, fun ho => ?_, fun hk => ?_,
        fun hk => ?_⟩
      · exact congrArg _ (if_neg ho)
      · exact congrArg _ (if_pos hk)
      · exact congrArg _ (if_neg hk)

end Sys2Proof.Machine
end

section
/-! The rollback engine: the slot it takes (R99), and the answers of its walk READs and restores by the phase of the walk and
the bridge state (R100 to R105, R108, R125, R133). -/

namespace Sys2Proof.Machine

/-! ### The slot taken (R99, R100) -/

/-- The engine may take a slot: it is idle, in RUNNING or in a RECOVERING that is not to stop (R99, R133; log 18). -/
abbrev State.mayTakeSlot (s : State) : Prop :=
  s.grp.walk = none ∧ (s.bridge = .running ∨ (s.bridge = .recovering ∧ s.stopping = false))

section
variable {s : State}

theorem takeSlot_of_not (h : ¬ s.mayTakeSlot) : s.takeSlot = s := if_neg h

theorem takeSlot_of_empty (h : s.grp.queue = []) : s.takeSlot = s := by
  simp only [State.takeSlot, h, ite_self]

theorem takeSlot_of_front (h : s.mayTakeSlot) {i : SlotNo} {rest : List SlotNo} (hq : s.grp.queue = i :: rest) :
    s.takeSlot =
      (({ s with grp := { s.grp with
          queue := rest
          walk := some ⟨i, (s.slot i).newest, .reading, .none⟩ } } : State).updSlot i fun g =>
            { g with state := .rollingBack }).handWalkRead (s.slot i).newest := by
  rw [State.takeSlot, if_pos h, hq]

end

/-- Settles O48: the conditions of R99, then the front of the queue. -/
theorem rollbackTakesSlot : Obligations.RollbackTakesSlot := by
  intro s hp
  have hrun : exec .rollbackTakeSlot s = .next s.takeSlot := live_of_power hp State.takeSlot
  dsimp only
  rw [hrun]
  refine ⟨fun hstays => ?_, fun i rest hmay hq => ?_⟩
  · rcases hstays with hnot | hempty
    · rw [takeSlot_of_not hnot]
    · rw [takeSlot_of_empty hempty]
  · rw [takeSlot_of_front hmay hq]
    rfl

/-! ### Walk READs, by the phase of the walk -/

section
variable {s : State} {pos : Nat} {bytes : List Byte}

theorem walkReadDone_of_idle (hw : s.grp.walk = none) : s.walkReadDone bytes = s := by
  simp only [State.walkReadDone, hw]

theorem walkReadFailed_of_idle (hw : s.grp.walk = none) : s.walkReadFailed pos = s := by
  simp only [State.walkReadFailed, hw]

variable {w : Walk} (hw : s.grp.walk = some w)
include hw

theorem walkReadDone_ending (hp : w.phase = .ending) : s.walkReadDone bytes = s.endWalk := by
  simp only [State.walkReadDone, hw, hp]

theorem walkReadFailed_ending (hp : w.phase = .ending) : s.walkReadFailed pos = s.endWalk := by
  simp only [State.walkReadFailed, hw, hp]

/-- In FAULTED the answer of a walk that has not failed is discarded (R108). -/
theorem walkReadDone_faulted (hp : w.phase ≠ .ending) (hb : s.bridge = .faulted) : s.walkReadDone bytes = s := by
  cases h : w.phase
  case ending => exact absurd h hp
  all_goals simp only [State.walkReadDone, hw, h, hb, true_or, if_true]

theorem walkReadFailed_faulted (hp : w.phase ≠ .ending) (hb : s.bridge = .faulted) : s.walkReadFailed pos = s := by
  cases h : w.phase
  case ending => exact absurd h hp
  all_goals simp only [State.walkReadFailed, hw, h, hb, true_or, if_true]

/-- In a recovery that is to stop, the answer of a read-ahead is discarded (R133). -/
theorem walkReadDone_restoring_stopping {back : Nat} (hp : w.phase = .restoring back) (hs : s.stopping = true) :
    s.walkReadDone bytes = s := by
  simp only [State.walkReadDone, hw, hp, hs, or_true, if_true]

theorem walkReadFailed_restoring_stopping {back : Nat} (hp : w.phase = .restoring back) (hs : s.stopping = true) :
    s.walkReadFailed pos = s := by
  simp only [State.walkReadFailed, hw, hp, hs, or_true, if_true]

variable (hb : s.bridge ≠ .faulted)
include hb

theorem walkReadFailed_reading (hp : w.phase = .reading) : s.walkReadFailed pos = s.walkFail w w.pos .memError := by
  simp only [State.walkReadFailed, hw, hp, if_neg hb]

theorem walkReadFailed_suspended (hp : w.phase = .suspended) :
    s.walkReadFailed pos = s.setWalk (some { w with ahead := .keptError }) := by
  simp only [State.walkReadFailed, hw, hp, if_neg hb]

/-- In a recovery that is to stop, the READ at the walk position lets it stop (R133). -/
theorem walkReadDone_reading_stopping (hp : w.phase = .reading) (hs : s.stopping = true) :
    s.walkReadDone bytes = s.stopCheck := by
  simp only [State.walkReadDone, hw, hp, if_neg hb, if_pos hs]

variable (hs : s.stopping = false)
include hs

theorem walkReadDone_reading (hp : w.phase = .reading) : s.walkReadDone bytes = s.considerRecord w bytes := by
  simp only [State.walkReadDone, hw, hp, if_neg hb, hs, Bool.false_eq_true, if_false]

/-- A read-ahead's bytes are kept, while the restore before it is outstanding or the walk is stopped by a drain (R101,
R125). -/
theorem walkReadDone_ahead (hp : (∃ back, w.phase = .restoring back) ∨ w.phase = .suspended) :
    s.walkReadDone bytes = s.setWalk (some { w with ahead := .kept bytes }) := by
  rcases hp with ⟨back, hp⟩ | hp <;>
    simp only [State.walkReadDone, hw, hp, hb, hs, Bool.false_eq_true, or_self, if_false]

/-- A read-ahead that fails fails the walk at its own position (log 37). -/
theorem walkReadFailed_restoring {back : Nat} (hp : w.phase = .restoring back) :
    s.walkReadFailed pos = s.walkFail w pos .memError := by
  simp only [State.walkReadFailed, hw, hp, hb, hs, Bool.false_eq_true, or_self, if_false]

end

section
variable {s : State} {t : MTag} (hp : s.power = true)
include hp

theorem exec_walkReadAnswered {pos : Nat} (h : s.awaits t (.walkRead pos)) (a : MemAnswer) :
    exec (.walkReadAnswered t a) s = .next (if isErrorAnswer a then (s.withAnswer t a).walkReadFailed pos
      else (s.withAnswer t a).walkReadDone (s.readData t (racedOf a))) := by
  change execWalkReadAnswered t a s = _
  refine (live_takeAnswer hp h a (fun _ => Ref.isWalkRead) _ rfl nofun nofun).trans ?_
  rw [h.2]

theorem exec_restoreAnswered (h : s.awaits t .restore) (a : MemAnswer) :
    exec (.restoreAnswered t a) s = .next (if isErrorAnswer a then (s.withAnswer t a).restoreFailed
      else (s.withAnswer t a).restoreDone) := by
  change execRestoreAnswered t a s = _
  exact live_takeAnswer hp h a (fun _ r => decide (r = .restore)) _ rfl nofun nofun

end

/-- Settles O49: the READ's answer is taken, and the phase of the walk and the bridge state say what follows. -/
theorem walkReadAnswered : Obligations.WalkReadAnswered := by
  intro s t pos hp ha hread gives discards
  have hdone : ∀ raced (leaves : State → State → Prop), leaves (s.withAnswer t (.done raced))
      ((s.withAnswer t (.done raced)).walkReadDone (s.readData t raced)) → gives (.done raced) leaves := by
    intro raced leaves h
    obtain ⟨htaken, hmem⟩ := answerTaken_withAnswer_read (.done raced) hread
    exact ⟨_, _, exec_walkReadAnswered hp ha (.done raced), htaken, hmem, h⟩
  have herror : ∀ x (leaves : State → State → Prop), leaves (s.withAnswer t (.error x))
      ((s.withAnswer t (.error x)).walkReadFailed pos) → gives (.error x) leaves := by
    intro x leaves h
    obtain ⟨htaken, hmem⟩ := answerTaken_withAnswer_read (.error x) hread
    exact ⟨_, _, exec_walkReadAnswered hp ha (.error x), htaken, hmem, h⟩
  refine ⟨fun hw a => ?_, fun w hw => ?_⟩
  · cases a with
    | done raced => exact hdone raced _ (walkReadDone_of_idle hw)
    | error x => exact herror x _ (walkReadFailed_of_idle hw)
  have hdw : ∀ raced, (s.withAnswer t (.done raced)).grp.walk = some w := fun _ => hw
  have hew : ∀ x, (s.withAnswer t (.error x)).grp.walk = some w := fun _ => hw
  refine ⟨fun hend a => ?_, fun hne hb a => ?_, fun hph hb => ⟨fun raced hs => hdone raced _ ?_,
    fun raced hs => hdone raced _ ?_, fun x => herror x _ ?_⟩, fun back hph hb => ⟨fun hs a => ?_,
    fun hs => ⟨fun raced => hdone raced _ ?_, fun x => herror x _ ?_⟩⟩, fun hph hb => ⟨fun raced hs => hdone raced _ ?_,
    fun x => herror x _ ?_⟩⟩
  · cases a with
    | done raced => exact hdone raced _ (walkReadDone_ending (hdw raced) hend ▸ engineEnds_endWalk _)
    | error x => exact herror x _ (walkReadFailed_ending (hew x) hend ▸ engineEnds_endWalk _)
  · cases a with
    | done raced => exact hdone raced _ (walkReadDone_faulted (hdw raced) hne hb)
    | error x => exact herror x _ (walkReadFailed_faulted (hew x) hne hb)
  · rw [walkReadDone_reading (hdw raced) hb hs hph]
    exact recordConsidered_considerRecord _ w _
  · rw [walkReadDone_reading_stopping (hdw raced) hb hph hs]
    exact stopPointMet_stopCheck _
  · rw [walkReadFailed_reading (hew x) hb hph]
    exact walkEndsBroken_walkFail _ w _ _
  · cases a with
    | done raced => exact hdone raced _ (walkReadDone_restoring_stopping (hdw raced) hph hs)
    | error x => exact herror x _ (walkReadFailed_restoring_stopping (hew x) hph hs)
  · exact walkReadDone_ahead (hdw raced) hb hs (.inl ⟨back, hph⟩)
  · rw [walkReadFailed_restoring (hew x) hb hs hph]
    exact walkEndsBroken_walkFail _ w _ _
  · exact walkReadDone_ahead (hdw raced) hb hs (.inr hph)
  · exact walkReadFailed_suspended (hew x) hb hph

/-! ### Restores, by the phase of the walk -/

section
variable {s : State}

theorem restoreDone_of_idle (hw : s.grp.walk = none) : s.restoreDone = s := by
  simp only [State.restoreDone, hw]

theorem restoreFailed_of_idle (hw : s.grp.walk = none) : s.restoreFailed = s := by
  simp only [State.restoreFailed, hw]

variable {w : Walk} (hw : s.grp.walk = some w)
include hw

theorem restoreDone_ending (hp : w.phase = .ending) : s.restoreDone = s.endWalk := by
  simp only [State.restoreDone, hw, hp]

theorem restoreFailed_ending (hp : w.phase = .ending) : s.restoreFailed = s.endWalk := by
  simp only [State.restoreFailed, hw, hp]

/-- A walk with no restore of its own has no use for the answer of one (log 4). -/
theorem restoreDone_elsewhere (hp : w.phase = .reading ∨ w.phase = .suspended) : s.restoreDone = s := by
  rcases hp with hp | hp <;> simp only [State.restoreDone, hw, hp]

theorem restoreFailed_elsewhere (hp : w.phase = .reading ∨ w.phase = .suspended) : s.restoreFailed = s := by
  rcases hp with hp | hp <;> simp only [State.restoreFailed, hw, hp]

variable {back : Nat} (hp : w.phase = .restoring back)
include hp

/-- A restore that fails fails its walk, in every bridge state (R105, R108). -/
theorem restoreFailed_restoring : s.restoreFailed = s.walkFail w w.pos .memError := by
  simp only [State.restoreFailed, hw, hp]

theorem restoreDone_faulted (hb : s.bridge = .faulted) : s.restoreDone = s := by
  simp only [State.restoreDone, hw, hp, if_pos hb]

variable (hb : s.bridge ≠ .faulted)
include hb

theorem restoreDone_stopping (hs : s.stopping = true) : s.restoreDone = s.stopCheck := by
  simp only [State.restoreDone, hw, hp, if_neg hb, if_pos hs]

variable (hs : s.stopping = false)
include hs

/-- The group's first record is restored, and with it the group (R103). -/
theorem restoreDone_first (h0 : back = 0) : s.restoreDone = s.walkComplete w.slot := by
  simp only [State.restoreDone, hw, hp, if_neg hb, hs, Bool.false_eq_true, if_false, if_pos h0]

variable (h0 : back ≠ 0)
include h0

/-- A drain stops the walk at the next record (R102, R125). -/
theorem restoreDone_draining (hd : s.bridge = .draining) :
    s.restoreDone = s.setWalk (some { w with pos := w.pos - back, phase := .suspended }) := by
  simp only [State.restoreDone, hw, hp, if_neg hb, hs, Bool.false_eq_true, if_false, if_neg h0, if_pos hd]

theorem restoreDone_next (hd : s.bridge ≠ .draining) : s.restoreDone = s.takeUp w (w.pos - back) := by
  simp only [State.restoreDone, hw, hp, if_neg hb, hs, Bool.false_eq_true, if_false, if_neg h0, if_neg hd]

end

/-- Settles O50: the restore's answer is taken, and the phase of the walk and the bridge state say what follows. -/
theorem restoreAnswered : Obligations.RestoreAnswered := by
  intro s t hp hwf ha gives
  have hdone : ∀ raced (leaves : State → State → Prop), leaves (s.withAnswer t (.done raced))
      (s.withAnswer t (.done raced)).restoreDone → gives (.done raced) leaves := fun raced leaves h =>
    ⟨_, _, exec_restoreAnswered hp ha (.done raced), answerTaken_withAnswer fun _ => hwf, h⟩
  have herror : ∀ x (leaves : State → State → Prop), leaves (s.withAnswer t (.error x))
      (s.withAnswer t (.error x)).restoreFailed → gives (.error x) leaves := fun x leaves h =>
    ⟨_, _, exec_restoreAnswered hp ha (.error x), answerTaken_withAnswer fun _ => hwf, h⟩
  refine ⟨fun hw a => ?_, fun w hw => ?_⟩
  · cases a with
    | done raced => exact hdone raced _ (restoreDone_of_idle hw)
    | error x => exact herror x _ (restoreFailed_of_idle hw)
  have hdw : ∀ raced, (s.withAnswer t (.done raced)).grp.walk = some w := fun _ => hw
  have hew : ∀ x, (s.withAnswer t (.error x)).grp.walk = some w := fun _ => hw
  refine ⟨fun hend a => ?_, fun helse a => ?_, fun back hph => ⟨fun landed => herror landed _ ?_,
    fun hb => hdone [] _ (restoreDone_faulted (hdw []) hph hb), fun hb hs => hdone [] _ ?_,
    fun hb hs => ⟨fun h0 => hdone [] _ (restoreDone_first (hdw []) hph hb hs h0),
      fun h0 hd => hdone [] _ (restoreDone_draining (hdw []) hph hb hs h0 hd), fun h0 hd => hdone [] _ ?_⟩⟩⟩
  · cases a with
    | done raced => exact hdone raced _ (restoreDone_ending (hdw raced) hend ▸ engineEnds_endWalk _)
    | error x => exact herror x _ (restoreFailed_ending (hew x) hend ▸ engineEnds_endWalk _)
  · cases a with
    | done raced => exact hdone raced _ (restoreDone_elsewhere (hdw raced) helse)
    | error x => exact herror x _ (restoreFailed_elsewhere (hew x) helse)
  · rw [restoreFailed_restoring (hew landed) hph]
    exact walkEndsBroken_walkFail _ w _ _
  · rw [restoreDone_stopping (hdw []) hph hb hs]
    exact stopPointMet_stopCheck _
  · rw [restoreDone_next (hdw []) hph hb hs h0 hd]
    exact recordTakenUp_takeUp _ w _

end Sys2Proof.Machine
end

section
/-! The return from HALTED to RUNNING, by RESUME or by the resume delay's expiry, and the walk that the drain stopped (R125,
R130 to R132). -/

namespace Sys2Proof.Machine

/-! ### The walk that goes on (R132) -/

theorem resumeWalk_of_not_suspended {s : State} (h : ∀ w, s.grp.walk = some w → w.phase ≠ .suspended) :
    s.resumeWalk = s := by
  unfold State.resumeWalk
  split
  · rfl
  · rename_i w hw
    exact if_neg (h w hw)

theorem resumeWalk_suspended {s : State} {w : Walk} (hw : s.grp.walk = some w) (hp : w.phase = .suspended) :
    s.resumeWalk = s.takeUp w w.pos := by
  simp only [State.resumeWalk, hw, hp, if_true]

/-! Outside RECOVERING a walk, failing or not, leaves the management link alone. -/

section
variable {s : State} (hb : s.bridge ≠ .recovering)
include hb

theorem walkFail_link (w : Walk) (pos : Nat) (d : Detail) : (s.walkFail w pos d).link = s.link := by
  obtain ⟨hfails, -⟩ := walkEndsBroken_walkFail s w pos d
  exact (congrArg State.link (hfails hb) :)

theorem considerRecord_link (w : Walk) (bytes : List Byte) : (s.considerRecord w bytes).link = s.link := by
  unfold State.considerRecord
  split
  · exact walkFail_link hb _ _ _
  · dsimp only [State.walkTo]
    split_ifs <;> rfl

theorem takeUp_link (w : Walk) (pos : Nat) : (s.takeUp w pos).link = s.link := by
  unfold State.takeUp
  split
  · rfl
  · rfl
  · exact considerRecord_link hb _ _
  · exact walkFail_link hb _ _ _

end

/-! ### RUNNING again -/

/-- The bridge is RUNNING again, and RESUMED is posted; the walk has not gone on yet (R132). -/
def State.backInRunning (s : State) (p : ResumePolicy) : State :=
  ({ s with bridge := .running, resumeAt := none } : State).post .resumed Key.zero (.resume p) s.slotsInUse s.log.head

theorem returnToRunning_eq (s : State) (p : ResumePolicy) : s.returnToRunning p = (s.backInRunning p).resumeWalk := rfl

section
variable {s : State}

theorem exec_resume (h : s.linkReady) : exec .resume s =
    .next (if s.bridge = .halted ∧ s.pfwAsserted = false
      then ((s.withCommand 0x0B []).returnToRunning .manual).answerLink .ok []
      else s.answerLink .state []) := live_takeCommand h 0x0B [] State.cmdResume

theorem resumeDelayExpiry_due {d : Nat} (hd : s.resumeAt = some d) (hle : d ≤ s.now) (hb : s.bridge = .halted) :
    s.resumeDelayExpiry = s.returnToRunning .auto := by
  simp only [State.resumeDelayExpiry, hd, hle, hb, and_self, if_true]

theorem resumeDelayExpiry_early (h : ¬ (s.bridge = .halted ∧ ∃ d, s.resumeAt = some d ∧ d ≤ s.now)) :
    s.resumeDelayExpiry = s := by
  unfold State.resumeDelayExpiry
  split
  · rename_i d hd
    exact if_neg fun ⟨hle, hb⟩ => h ⟨hb, d, hd, hle⟩
  · rfl

end

/-- Settles O53: both rows return the bridge to RUNNING alike; RESUME is answered after the walk goes on, which leaves the
link alone. -/
theorem resumeReturns : Obligations.ResumeReturns := by
  intro s hp resumed stays
  have hrun : exec .resumeDelayExpiry s = .next s.resumeDelayExpiry := live_of_power hp State.resumeDelayExpiry
  refine ⟨fun hl hnot => ?_, fun hl hb hpfw => ?_, fun hnot => ?_, fun d hd hle hb => ?_⟩
  · rw [exec_resume ⟨hp, hl⟩, if_neg hnot]
  · rw [exec_resume ⟨hp, hl⟩, if_pos ⟨hb, hpfw⟩, returnToRunning_eq]
    set m := (s.withCommand 0x0B []).backInRunning .manual
    refine ⟨fun hstays => ?_, fun w hw hph => ⟨m.takeUp w w.pos, ?_, ?_⟩⟩
    · rw [resumeWalk_of_not_suspended (s := m) hstays]
      rfl
    · rw [resumeWalk_suspended (s := m) hw hph]
    · rw [takeUp_link (s := m) nofun]
      exact recordTakenUp_takeUp m w w.pos
  · rw [hrun, resumeDelayExpiry_early hnot]
  · rw [hrun, resumeDelayExpiry_due hd hle hb, returnToRunning_eq]
    refine ⟨fun hstays => ?_, fun w hw hph => ⟨_, rfl, ?_⟩⟩
    · rw [resumeWalk_of_not_suspended (s := s.backInRunning .auto) hstays]
      rfl
    · rw [resumeWalk_suspended (s := s.backInRunning .auto) hw hph]
      exact recordTakenUp_takeUp (resumed .auto) w w.pos

end Sys2Proof.Machine
end

section
/-! What a row does by its shape: without supply (R110), and the rows that answer an M-port request, whether or not a
requester waits for the answer (R116, R118 to R120). -/

namespace Sys2Proof.Machine

/-! ### Without supply -/

/-- Every row but the grant and the power-on reset acts only on a powered part (log 8). -/
theorem exec_live (c : Instr) : (∃ f : State → State, ∀ s, exec c s = live s f) ∨ c = .mportGrant ∨
    ∃ st b l, c = .powerOnReset st b l := by
  cases c with
  | mportGrant => exact .inr (.inl rfl)
  | powerOnReset st b l => exact .inr (.inr ⟨st, b, l, rfl⟩)
  | _ => exact .inl ⟨_, fun _ => rfl⟩

/-- Settles O5: a live row leaves an unpowered part, and so does the grant. -/
theorem poweredOffIsInert : Obligations.PoweredOffIsInert := by
  intro c s hoff hnot
  rcases exec_live c with ⟨f, hf⟩ | rfl | ⟨st, b, l, rfl⟩
  · rw [hf]
    simp [live, hoff]
  · simp [exec, execMportGrant, hoff]
  · exact absurd rfl (hnot st b l)

/-! ### The rows that answer an M-port request -/

/-- The row takes the answer `a` on tag `t` for the requests it names, and its requester's rule is steady. -/
def TakesAnswer (c : Instr) (t : MTag) (a : MemAnswer) : Prop :=
  ∃ (wanted : State → Ref → Bool) (act : State → State → MReq → State), (∀ v u q, Steady u (act v u q)) ∧
    ∀ s, exec c s = live s fun s => s.takeAnswer t a (wanted s) (act s)

/-- LATE_RESPONSE has no requester; every other answer row has one (R116, R118). -/
theorem takesAnswer_of_answerRow {c : Instr} {t : MTag} {a : MemAnswer} (h : answerRow c = some (t, a)) :
    c = .lateResponse t a ∨ TakesAnswer c t a := by
  cases c with
  | lateResponse => cases h; exact .inl rfl
  | preResetResponse => cases h; exact .inr ⟨_, _, fun _ u _ => Steady.refl u, fun _ => rfl⟩
  | biReadDone =>
    cases h
    exact .inr ⟨_, _, fun _ u _ => by split; exacts [(quiet_biReadDone _ _ _).steady, Steady.refl u], fun _ => rfl⟩
  | biReadFailed =>
    cases h
    exact .inr ⟨_, _, fun _ u _ => by split; exacts [(quiet_biReadFailed _ _).steady, Steady.refl u], fun _ => rfl⟩
  | recordWriteDone =>
    cases h
    exact .inr ⟨_, _, fun _ u _ => by split; exacts [steady_recordDone _ _, Steady.refl u], fun _ => rfl⟩
  | recordWriteFailed =>
    cases h
    exact .inr ⟨_, _, fun _ u _ => by split; exacts [(quiet_recordFailed _ _).steady, Steady.refl u], fun _ => rfl⟩
  | recordRetryFailed =>
    cases h
    exact .inr ⟨_, _, fun _ u _ => by split; exacts [steady_retryFailed _ _, Steady.refl u], fun _ => rfl⟩
  | dataWriteDone =>
    cases h
    exact .inr ⟨_, _, fun _ u _ => by split; exacts [(quiet_dataDone _ _ _).steady, Steady.refl u], fun _ => rfl⟩
  | dataWriteFailed =>
    cases h
    exact .inr ⟨_, _, fun _ u _ => by split; exacts [(quiet_dataFailed _ _ _).steady, Steady.refl u], fun _ => rfl⟩
  | passReadAnswered =>
    cases h
    exact .inr ⟨_, _, fun _ u _ => by split; exacts [(quiet_passAnswered _ _ _ _).steady, Steady.refl u], fun _ => rfl⟩
  | passWriteAnswered =>
    cases h
    exact .inr ⟨_, _, fun _ u _ => by split; exacts [(quiet_passAnswered _ _ _ _).steady, Steady.refl u], fun _ => rfl⟩
  | walkReadAnswered =>
    cases h
    exact .inr ⟨_, _, fun _ u _ => by
      split
      · exact Steady.ite (fun _ => steady_walkReadFailed _ _) fun _ => steady_walkReadDone _ _
      · exact Steady.refl u, fun _ => rfl⟩
  | anchorReadAnswered =>
    cases h
    exact .inr ⟨_, _, fun _ u _ => by
      split
      · exact Steady.ite (fun _ => steady_anchorReadFailed _) fun _ => steady_anchorReadDone _ _ _
      · exact Steady.refl u, fun _ => rfl⟩
  | restoreAnswered =>
    cases h
    exact .inr ⟨_, _, fun _ _ _ => Steady.ite (fun _ => steady_restoreFailed _) fun _ => steady_restoreDone _, fun _ => rfl⟩
  | scanReadAnswered =>
    cases h
    exact .inr ⟨_, _, fun _ _ _ => Steady.ite (fun _ => steady_scanFailed _) fun _ => steady_scanDone _ _, fun _ => rfl⟩
  | anchorWriteDone => cases h; exact .inr ⟨_, _, fun _ _ _ => steady_anchorAnswered _ _, fun _ => rfl⟩
  | anchorWriteFailed => cases h; exact .inr ⟨_, _, fun _ _ _ => steady_anchorAnswered _ _, fun _ => rfl⟩
  | drainDone => cases h; exact .inr ⟨_, _, fun _ _ _ => steady_anchorAnswered _ _, fun _ => rfl⟩
  | freshAnchorAnswered => cases h; exact .inr ⟨_, _, fun _ _ _ => steady_anchorAnswered _ _, fun _ => rfl⟩
  | recoveryDone => cases h; exact .inr ⟨_, _, fun _ _ _ => steady_anchorAnswered _ _, fun _ => rfl⟩
  | stopAnchorAnswered => cases h; exact .inr ⟨_, _, fun _ _ _ => steady_anchorAnswered _ _, fun _ => rfl⟩
  | _ => cases h

/-! ### Responses by the state of their tag -/

section
variable {s : State} {t : MTag} {a : MemAnswer} {wanted : Ref → Bool} {act : State → MReq → State}

theorem takeAnswer_free (h : (s.tag t).state = .free) : s.takeAnswer t a wanted act = s := by
  simp only [State.takeAnswer, h]

theorem takeAnswer_retired (h : (s.tag t).state = .retired) : s.takeAnswer t a wanted act = s.settle t a := by
  simp only [State.takeAnswer, h]

theorem takeAnswer_discarded (h : (s.tag t).state = .outstanding)
    (hr : (s.tag t).req.ref = .dropped ∨ (s.tag t).req.ref = .preReset) :
    s.takeAnswer t a wanted act = s.withAnswer t a := by
  simp only [State.takeAnswer, h, if_pos hr]
  rfl

/-- A response that reaches a requester's rule settles its tag first; any other is discarded, or stands for no event. -/
theorem takeAnswer_cases (hact : ∀ u q, Steady u (act u q)) :
    s.takeAnswer t a wanted act = s ∨ ((s.tag t).state ≠ .free ∧
      (s.takeAnswer t a wanted act).mem = (s.settle t a).mem) := by
  cases h : (s.tag t).state with
  | free => exact .inl (takeAnswer_free h)
  | retired => exact .inr ⟨nofun, by rw [takeAnswer_retired h]⟩
  | outstanding =>
    have counted : (s.withAnswer t a).mem = (s.settle t a).mem := by cases a <;> rfl
    by_cases hr : (s.tag t).req.ref = .dropped ∨ (s.tag t).req.ref = .preReset
    · exact .inr ⟨nofun, by rw [takeAnswer_discarded h hr, counted]⟩
    · simp only [State.takeAnswer, h, if_neg hr]
      split
      · exact .inr ⟨nofun, (hact _ _).mem.trans counted⟩
      · exact .inl rfl

end

theorem exec_lateResponse {s : State} (hp : s.power = true) (t : MTag) (a : MemAnswer) :
    exec (.lateResponse t a) s = .next (if (s.tag t).state = .retired then s.settle t a else s) :=
  live_of_power hp _

/-- A response settles its tag and changes nothing else: memory takes what landed, and the tag is FREE. -/
theorem settle_cases {s : State} {t : MTag} (a : MemAnswer) (h : s.mem.wf = true) :
    MemoryTakes (s.tag t).req (landedOf a) s (s.settle t a) ∧ TagFreed s (s.settle t a) t ∧
      s.settle t a = { s with
        mem := (s.settle t a).mem, mport := { s.mport with tags := (s.settle t a).mport.tags } } :=
  ⟨fun _ => MReq.get_storeTo _ _ _ _ h, ⟨State.tag_settle_self s t a, State.tag_settle_ne s t a⟩, rfl⟩

/-- Settles O38: each row by the state of its tag; only a discarded ERROR counts, not a late one. -/
theorem answerWithoutRequester : Obligations.AnswerWithoutRequester := by
  intro c s t a hrow hp hwf freed
  obtain ⟨takes, freed_settle, only⟩ := settle_cases (t := t) a hwf
  have late : freed (s.settle t a) := ⟨takes, freed_settle, only⟩
  have discarded : freed (s.withAnswer t a) ∧ (s.withAnswer t a).notes = { s.notes with counters :=
      { s.notes.counters with memErrors := if isErrorAnswer a = true then min (s.notes.counters.memErrors + 1) 4294967295
          else s.notes.counters.memErrors } } := by
    cases a <;> exact ⟨⟨takes, freed_settle, rfl⟩, rfl⟩
  rcases takesAnswer_of_answerRow hrow with rfl | ⟨wanted, act, -, hexec⟩
  · rw [exec_lateResponse hp]
    refine ⟨fun h => ?_, fun h => ⟨_, rfl, ?_⟩, fun h _ => ?_, fun _ h => absurd rfl h⟩
    · rw [if_neg (by simp [h])]
    · rw [if_pos h]
      exact ⟨late, rfl⟩
    · rw [if_neg (by simp [h])]
  · rw [hexec, live_of_power hp]
    refine ⟨fun h => ?_, fun h => ⟨_, rfl, ?_⟩, fun h he => ?_, fun h _ hr => ⟨_, rfl, ?_⟩⟩
    · rw [takeAnswer_free h]
    · rw [takeAnswer_retired h]
      exact ⟨late, rfl⟩
    · rw [← live_of_power (f := fun s => s.takeAnswer t a (wanted s) (act s)) hp, ← hexec, he, exec_lateResponse hp,
        if_neg (by simp [h])]
    · rw [takeAnswer_discarded h hr]
      exact discarded

end Sys2Proof.Machine
end

section
/-! Memory changes only where the M-port says (R110): no rule of the part but an answer's settling and a power event touches
it. -/

namespace Sys2Proof.Machine

/-! ### The management commands -/

theorem mem_cmdGetRegion (s : State) (n : Nat) : (s.cmdGetRegion n).mem = s.mem := by
  unfold State.cmdGetRegion
  split <;> rfl

theorem mem_cmdGetGroup (s : State) (n : Nat) : (s.cmdGetGroup n).mem = s.mem := by
  unfold State.cmdGetGroup
  split <;> rfl

theorem mem_cmdPopNotice (s : State) : s.cmdPopNotice.mem = s.mem := by
  unfold State.cmdPopNotice
  split <;> rfl

theorem mem_cmdSetLog (s : State) (b k : Nat) : (s.cmdSetLog b k).mem = s.mem := by
  unfold State.cmdSetLog
  repeat' split
  all_goals rfl

theorem mem_cmdSetRegion (s : State) (p : RegionParams) : (s.cmdSetRegion p).mem = s.mem := by
  unfold State.cmdSetRegion
  repeat' split
  all_goals rfl

theorem mem_cmdClearRegion (s : State) (n : Nat) : (s.cmdClearRegion n).mem = s.mem := by
  unfold State.cmdClearRegion
  repeat' split
  all_goals rfl

theorem mem_cmdSetPolicy (s : State) (p : PolicyParams) : (s.cmdSetPolicy p).mem = s.mem := by
  unfold State.cmdSetPolicy
  split
  · rfl
  · split
    · rfl
    · split
      · rfl
      · dsimp only
        rw [(quiet_answerLink _ _ _).mem, State.lowCompare_mem, resumeChange_eq]

theorem mem_cmdSetNoticeMask (s : State) (n : Nat) : (s.cmdSetNoticeMask n).mem = s.mem := by
  unfold State.cmdSetNoticeMask
  split <;> rfl

theorem mem_cmdClearCounters (s : State) : s.cmdClearCounters.mem = s.mem := by
  unfold State.cmdClearCounters
  split <;> rfl

theorem mem_cmdSetLock (s : State) (n : Nat) : (s.cmdSetLock n).mem = s.mem := by
  unfold State.cmdSetLock
  repeat' split
  all_goals rfl

theorem mem_cmdStartFresh (s : State) : s.cmdStartFresh.mem = s.mem := by
  unfold State.cmdStartFresh
  split
  · rfl
  · split
    · rfl
    · exact ((steady_openStart _ _ _).trans (quiet_readAnchors _).steady).mem

theorem mem_cmdStartRecover (s : State) : s.cmdStartRecover.mem = s.mem := by
  unfold State.cmdStartRecover
  split
  · rfl
  · have opened := (steady_openStart s .recover .recovering).trans (quiet_answerLink _ .ok []).steady
    exact (Steady.ite (fun _ => opened.trans (steady_failRecovery _ _ _)) fun _ =>
      opened.trans (quiet_readAnchors _).steady).mem

theorem mem_cmdStop (s : State) : s.cmdStop.mem = s.mem := by
  have gated : Steady s { s.dropRetry with bridge := .gated } :=
    (quiet_dropRetry s).steady.trans (Steady.control (o := s.dropRetry.start) (r := s.dropRetry.resumeAt))
  unfold State.cmdStop
  split
  · exact ((gated.trans (steady_redecidePaused _)).trans (quiet_stopAnchor _).steady).mem
  · rfl

theorem mem_cmdResume (s : State) : s.cmdResume.mem = s.mem := by
  unfold State.cmdResume
  split
  · exact (steady_returnToRunning _ _).mem
  · rfl

theorem mem_cmdAbandonGroup (s : State) (source group : Nat) : (s.cmdAbandonGroup source group).mem = s.mem := by
  unfold State.cmdAbandonGroup
  repeat' split
  all_goals first | rfl | exact (quiet_enterClosing _ _ _ _ _).mem

theorem mem_cmdReleaseBroken (s : State) (source group : Nat) : (s.cmdReleaseBroken source group).mem = s.mem := by
  unfold State.cmdReleaseBroken
  repeat' split
  all_goals rfl

theorem mem_runCommand (s : State) (code : Nat) (ps : List Byte) : (s.runCommand code ps).mem = s.mem := by
  unfold State.runCommand
  split
  · rfl
  · rfl
  · exact mem_cmdSetLog _ _ _
  · exact mem_cmdSetRegion _ _
  · exact mem_cmdClearRegion _ _
  · exact mem_cmdGetRegion _ _
  · exact mem_cmdSetPolicy _ _
  · rfl
  · split
    · exact mem_cmdStartFresh _
    · split
      · exact mem_cmdStartRecover _
      · rfl
  · exact mem_cmdStop _
  · exact mem_cmdResume _
  · exact mem_cmdAbandonGroup _ _ _
  · exact mem_cmdReleaseBroken _ _ _
  · exact mem_cmdGetGroup _ _
  · exact mem_cmdPopNotice _
  · exact mem_cmdSetNoticeMask _ _
  · rfl
  · exact mem_cmdClearCounters _
  · exact mem_cmdSetLock _ _
  · rfl

theorem mem_takeCommand {act : State → State} (h : ∀ u : State, (act u).mem = u.mem) (s : State) (code : Nat)
    (ps : List Byte) : (s.takeCommand code ps act).mem = s.mem := by
  unfold State.takeCommand
  split
  · rfl
  · exact h _

theorem mem_writeTransfer (s : State) (a : BitVec 7) (bs : List Byte) : (s.writeTransfer a bs).mem = s.mem := by
  unfold State.writeTransfer State.endFrame
  dsimp only
  repeat' split
  all_goals first | rfl | exact mem_takeCommand (fun u => mem_runCommand u _ _) _ _ _

/-! ### Every row that is neither an answer nor a power event -/

theorem mem_assertPfw (s : State) : s.assertPfw.mem = s.mem := by
  unfold State.assertPfw
  split
  · rfl
  · dsimp only
    split
    · exact (steady_enterDraining _).mem
    · exact (steady_stopRecovery _).mem
    all_goals rfl

theorem mem_deassertPfw (s : State) : s.deassertPfw.mem = s.mem := by
  unfold State.deassertPfw
  split
  · dsimp only
    split
    · exact (quiet_resumeIfAuto _).mem
    · rfl
  · rfl

theorem mem_issue (s : State) (c : Cls) (q : MReq) (t : MTag) : (s.issue c q t).mem = s.mem :=
  (quiet_noteIssued _ _).mem

theorem mem_expire (s : State) (t : MTag) : (if (s.tag t).state = .outstanding ∧ (s.tag t).limit ≤ s.now
    then (s.retire t).handError (s.tag t).req.ref else s).mem = s.mem := by
  split
  · exact (steady_handError _ _).mem
  · rfl

theorem mem_takeRequest (s : State) (r : Request) : (s.takeRequest r).mem = s.mem := by
  unfold State.takeRequest
  split <;> rfl

/-- The row leaves the memory, whatever state it gives. -/
def MemStands (c : Instr) (s : State) : Prop := ∀ t, exec c s = .next t → t.mem = s.mem

section
variable {c : Instr} {s : State}

theorem memStands_live {f : State → State} (hrow : exec c s = live s f) (h : (f s).mem = s.mem) : MemStands c s := by
  intro t ht
  rw [hrow] at ht
  cases ht
  split
  · exact h
  · rfl

theorem memStands_command {code : Nat} {ps : List Byte} {act : State → State}
    (hrow : exec c s = live s fun s => s.takeCommand code ps act) (h : ∀ u : State, (act u).mem = u.mem) :
    MemStands c s := memStands_live hrow (mem_takeCommand h s code ps)

theorem memStands_mportGrant : MemStands .mportGrant s := by
  intro t ht
  change execMportGrant s = _ at ht
  unfold execMportGrant at ht
  repeat' split at ht
  all_goals cases ht
  all_goals first | rfl | exact mem_issue _ _ _ _

end

/-- A row that stands for no M-port response and no power event leaves memory (R110). -/
theorem exec_memStands {c : Instr} (h : answerRow c = none) (hpower : ¬ Instr.IsPower c) (s : State) :
    MemStands c s := by
  cases c with
  | hostRequest r => exact memStands_live rfl (mem_takeRequest s r)
  | admitWrite => exact memStands_live (f := (State.takeNext · _)) rfl (steady_takeNext _ _).mem
  | admitRead => exact memStands_live (f := (State.takeNext · _)) rfl (steady_takeNext _ _).mem
  | markCommit => exact memStands_live (f := (State.takeNext · _)) rfl (steady_takeNext _ _).mem
  | markAbandon => exact memStands_live (f := (State.takeNext · _)) rfl (steady_takeNext _ _).mem
  | markOtherKind => exact memStands_live (f := (State.takeNext · _)) rfl (steady_takeNext _ _).mem
  | responseSent => exact memStands_live rfl (quiet_sendOldest _).mem
  | holdReevaluate => exact memStands_live (f := fun s => s.reevaluatePass _) rfl (steady_reevaluatePass _ _).mem
  | holdTimeout source tag => exact memStands_live (f := (State.holdTimeout · _ _)) rfl (quiet_holdTimeout _ _ _).mem
  | idleExpiry slot => exact memStands_live rfl (quiet_expireIdle _ _).mem
  | closingRecordAllocate => exact memStands_live rfl (grow_allocateDue s).mem
  | mportGrant => exact memStands_mportGrant
  | responseLimitExpiry tag => exact memStands_live rfl (mem_expire s tag)
  | anchorRetry => exact memStands_live rfl (quiet_anchorRetry _).mem
  | rollbackTakeSlot => exact memStands_live rfl (quiet_takeSlot _).mem
  | pfwAssert => exact memStands_live rfl (mem_assertPfw s)
  | pfwDeassert => exact memStands_live rfl (mem_deassertPfw s)
  | drainEnd =>
    exact memStands_live rfl (Steady.ite (fun _ => (quiet_launchDrainAnchor _).steady) fun _ => Steady.refl s).mem
  | resumeDelayExpiry => exact memStands_live rfl (steady_resumeDelayExpiry _).mem
  | warmReset => exact memStands_live rfl rfl
  | powerOnReset straps pfwHigh landed => exact absurd (.inl ⟨_, _, _, rfl⟩) hpower
  | powerLoss landed => exact absurd (.inr ⟨_, rfl⟩) hpower
  | recoveryFinalAnchor =>
    refine memStands_live (by unfold exec execRecoveryFinalAnchor; rfl) ?_
    split
    · exact (Steady.ite (fun _ => (quiet_finalAnchor _ _).steady) fun _ => Steady.refl s).mem
    · rfl
  | commandFrame address bytes => exact memStands_live rfl (mem_writeTransfer s address bytes)
  | getIdent => exact memStands_command rfl fun _ => rfl
  | getState => exact memStands_command rfl fun _ => rfl
  | setLog base exponent => exact memStands_command rfl fun u => mem_cmdSetLog u _ _
  | setRegion p => exact memStands_command rfl fun u => mem_cmdSetRegion u _
  | clearRegion index => exact memStands_command rfl fun u => mem_cmdClearRegion u _
  | getRegion index => exact memStands_command rfl fun u => mem_cmdGetRegion u _
  | setPolicy p => exact memStands_command rfl fun u => mem_cmdSetPolicy u _
  | getPolicy => exact memStands_command rfl fun _ => rfl
  | startFresh => exact memStands_command rfl mem_cmdStartFresh
  | startRecover => exact memStands_command rfl mem_cmdStartRecover
  | stop => exact memStands_command rfl mem_cmdStop
  | resume => exact memStands_command rfl mem_cmdResume
  | abandonGroup source group => exact memStands_command rfl fun u => mem_cmdAbandonGroup u _ _
  | releaseBroken source group => exact memStands_command rfl fun u => mem_cmdReleaseBroken u _ _
  | getGroup slot => exact memStands_command rfl fun u => mem_cmdGetGroup u _
  | popNotice => exact memStands_command rfl mem_cmdPopNotice
  | setNoticeMask mask => exact memStands_command rfl fun u => mem_cmdSetNoticeMask u _
  | getCounters => exact memStands_command rfl fun _ => rfl
  | clearCounters => exact memStands_command rfl mem_cmdClearCounters
  | setLock level => exact memStands_command rfl fun u => mem_cmdSetLock u _
  | _ => cases h

/-! ### The statement -/

/-- The bytes that land at a power event are bytes that an issued and unanswered WRITE selects (R110, log 9). -/
theorem landIssued_selects {s : State} {landed : List (BitVec 96)} (hwf : s.mem.wf = true) {x : Nat}
    (h : (s.landIssued landed).get x ≠ s.mem.get x) :
    ∃ m, (s.tag m).state ≠ .free ∧ (s.tag m).req.selects x = true := by
  by_contra hnone
  have one (m : Memory) (t : MTag) (hm : m.wf = true) :
      let m' := if (s.tag t).state = .free then m else (s.tag t).req.storeTo (landed.getD t.val 0) m
      m'.wf = true ∧ m'.get x = m.get x := by
    dsimp only
    split
    · exact ⟨hm, rfl⟩
    · refine ⟨MReq.storeTo_wf _ _ _ hm, ?_⟩
      rw [MReq.get_storeTo _ _ _ _ hm, if_neg fun hsel => hnone ⟨t, ‹_›, hsel.1⟩]
  have all (ts : List MTag) : ∀ m : Memory, m.wf = true → (ts.foldl (fun m t =>
      if (s.tag t).state = .free then m else (s.tag t).req.storeTo (landed.getD t.val 0) m) m).get x = m.get x := by
    induction ts with
    | nil => exact fun _ _ => rfl
    | cons t ts ih => exact fun m hm => (ih _ (one m t hm).1).trans (one m t hm).2
  exact h (all allTags s.mem hwf)

/-- A power event leaves the memory, or the memory with the bytes that land. -/
theorem exec_mem_of_isPower {c : Instr} (h : Instr.IsPower c) {s t : State} (hrun : exec c s = .next t) :
    t.mem = s.mem ∨ ∃ landed, t.mem = s.landIssued landed := by
  rcases h with ⟨straps, pfw, landed, rfl⟩ | ⟨landed, rfl⟩
  · cases hrun
    exact .inr ⟨landed, rfl⟩
  · cases hrun
    split
    · exact .inr ⟨landed, rfl⟩
    · exact .inl rfl

/-- Settles O6: an answer changes memory by its tag's settling alone, a power event by what lands, and no other row does. -/
theorem memoryChangesOnlyThroughMport : Obligations.MemoryChangesOnlyThroughMport := by
  intro c s t hwf hrun
  cases hrow : answerRow c with
  | some ma =>
    obtain ⟨m, a⟩ := ma
    have settled (u : State) (hu : u.mem = (s.settle m a).mem) : MemoryTakes (s.tag m).req (landedOf a) s u := by
      intro x
      rw [hu]
      exact MReq.get_storeTo _ _ _ _ hwf
    have same (u : State) (hu : u.mem = s.mem) : SameMemory s u := fun x => by rw [hu]
    change SameMemory s t ∨ (s.tag m).state ≠ .free ∧ MemoryTakes (s.tag m).req (landedOf a) s t
    by_cases hp : s.power = true
    · rcases takesAnswer_of_answerRow hrow with rfl | ⟨wanted, act, hact, hexec⟩
      · rw [exec_lateResponse hp] at hrun
        cases hrun
        split
        · rename_i hr
          exact .inr ⟨by simp [hr], settled _ rfl⟩
        · exact .inl (same _ rfl)
      · rw [hexec, live_of_power hp] at hrun
        cases hrun
        exact (takeAnswer_cases (hact s)).imp (fun h => same _ (by rw [h])) fun ⟨hs, h⟩ => ⟨hs, settled _ h⟩
    · rw [poweredOffIsInert c s (by simpa using hp) (by rintro st b l rfl; cases hrow)] at hrun
      cases hrun
      exact .inl (same _ rfl)
  | none =>
    intro x hx
    by_cases hpower : Instr.IsPower c
    · refine ⟨hpower, ?_⟩
      rcases exec_mem_of_isPower hpower hrun with h | ⟨landed, h⟩
      · exact absurd (by rw [h]) hx
      · exact landIssued_selects hwf (h ▸ hx)
    · exact absurd (by rw [exec_memStands hrow hpower s t hrun]) hx

end Sys2Proof.Machine
end

section
/-! The rule that takes an ERROR looks at no tag that is not OUTSTANDING and at no counter, and changes neither: it commutes
with a change of both. So a requester is handed an expired request's ERROR as it takes a failed answer (R117, R119). -/

namespace Sys2Proof.Machine

/-- The part with another entry at a tag and other counters. -/
def State.withEntry (s : State) (t : MTag) (e : TagEntry) (k : Counters) : State :=
  { s with mport := { s.mport with tags := s.mport.tags.set t e }, notes := { s.notes with counters := k } }

/-- The part with the entry and the counters it has. -/
theorem withEntry_self (s : State) (t : MTag) : s.withEntry t (s.tag t) s.notes.counters = s := by
  have h : s.mport.tags.set t (s.tag t) = s.mport.tags := Vector.set_getElem_self _
  simp only [State.withEntry, h]

section
variable (s : State) (t : MTag) (e : TagEntry) (k : Counters)

@[simp] theorem withEntry_bridge : (s.withEntry t e k).bridge = s.bridge := rfl
@[simp] theorem withEntry_start : (s.withEntry t e k).start = s.start := rfl
@[simp] theorem withEntry_host : (s.withEntry t e k).host = s.host := rfl
@[simp] theorem withEntry_grp : (s.withEntry t e k).grp = s.grp := rfl
@[simp] theorem withEntry_log : (s.withEntry t e k).log = s.log := rfl
@[simp] theorem withEntry_link : (s.withEntry t e k).link = s.link := rfl
@[simp] theorem withEntry_slot (i : SlotNo) : (s.withEntry t e k).slot i = s.slot i := rfl
@[simp] theorem withEntry_windowAt (pos : Nat) : (s.withEntry t e k).windowAt pos = s.windowAt pos := rfl
@[simp] theorem withEntry_ownerOf (pos : Nat) : (s.withEntry t e k).ownerOf pos = s.ownerOf pos := rfl
@[simp] theorem withEntry_findInflight (source : Source) (tag : ReqTag) :
    (s.withEntry t e k).findInflight source tag = s.findInflight source tag := rfl

variable {s t e k} in
/-- A choice commutes when its test stands and each of its outcomes commutes. -/
theorem ite_withEntry {p q : Prop} [Decidable p] [Decidable q] {u v u' v' : State} (h : q ↔ p)
    (hu : p → u' = u.withEntry t e k) (hv : ¬ p → v' = v.withEntry t e k) :
    (if q then u' else v') = (if p then u else v).withEntry t e k := by
  by_cases hp : p
  · rw [if_pos hp, if_pos (h.2 hp), hu hp]
  · rw [if_neg hp, if_neg (mt h.1 hp), hv hp]

/-! ### Queues, holds and groups -/

theorem handOver_withEntry (q : MReq) : (s.withEntry t e k).handOver q = (s.handOver q).withEntry t e k := by
  simp only [State.handOver, State.withEntry]
  cases q.ref.cls <;> rfl

theorem withdraw_withEntry (p : Ref → Bool) : (s.withEntry t e k).withdraw p = (s.withdraw p).withEntry t e k := rfl

theorem promoteList_withEntry (l before : List Inflight) :
    (s.withEntry t e k).promoteList before l = s.promoteList before l := by
  induction l generalizing before with
  | nil => rfl
  | cons x xs ih =>
    simp only [State.promoteList, ih]
    rfl

theorem promote_withEntry : (s.withEntry t e k).promote = s.promote.withEntry t e k := by
  unfold State.promote
  rw [promoteList_withEntry]
  exact List.foldl_hom (fun u : State => u.withEntry t e k)
    (init := { s with host := { s.host with inflight := (s.promoteList [] s.host.inflight).1 } })
    fun u q => handOver_withEntry u t e k q

theorem refuseHeldWrites_withEntry (key : Key) (why : Reason) :
    (s.withEntry t e k).refuseHeldWrites key why = (s.refuseHeldWrites key why).withEntry t e k := by
  unfold State.refuseHeldWrites State.refuseHeld
  exact List.foldl_hom (fun u : State => u.withEntry t e k) (init := s.setHolds _) fun _ _ => rfl

theorem emptyHolds_withEntry (why : Reason) :
    (s.withEntry t e k).emptyHolds why = (s.emptyHolds why).withEntry t e k := by
  unfold State.emptyHolds
  exact List.foldl_hom (fun u : State => u.withEntry t e k) (init := s.setHolds _) fun _ _ => rfl

theorem closingStep_withEntry (i : SlotNo) :
    (s.withEntry t e k).closingStep i = (s.closingStep i).withEntry t e k := by
  unfold State.closingStep
  refine ite_withEntry .rfl (fun _ => rfl) fun _ => ?_
  rw [withEntry_slot]
  cases (s.slot i).state with
  | committing =>
    refine ite_withEntry .rfl (fun _ => ?_) fun _ => rfl
    exact congrArg (State.joinQueue · i) (refuseHeldWrites_withEntry
      (s.updSlot i fun g => { g with state := .rollbackWait, cause := some .damaged }) t e k _ _)
  | _ => rfl

theorem answerWrite_withEntry (source : Source) (tag : ReqTag) (i : SlotNo) (a : Answer) :
    (s.withEntry t e k).answerWrite source tag i a = (s.answerWrite source tag i a).withEntry t e k :=
  closingStep_withEntry ((s.answerAdmitted source tag a).updSlot i fun g => { g with inflight := g.inflight - 1 }) t e k i

theorem answerWaiter_withEntry (i : SlotNo) (a : Waiter → Answer) :
    (s.withEntry t e k).answerWaiter i a = (s.answerWaiter i a).withEntry t e k := by
  unfold State.answerWaiter
  rw [withEntry_slot]
  cases (s.slot i).waiter <;> rfl

/-! ### The entry to FAULTED -/

theorem settleFront_withEntry (r : Request) {v : Verdict} (hv : v = .pass ∨ ∃ why, v = .refuse why) :
    (s.withEntry t e k).settleFront r v = (s.settleFront r v).withEntry t e k := by
  rcases hv with rfl | ⟨why, rfl⟩
  · unfold State.settleFront
    rw [show (s.withEntry t e k).shortage .pass = s.shortage .pass from rfl]
    cases s.shortage .pass with
    | some room => rfl
    | none =>
      obtain ⟨source, tag, body⟩ := r
      cases body <;> rfl
  · rfl

/-- In FAULTED a request passes or is refused (R35). -/
theorem decideFront_withEntry (h : s.bridge = .faulted) :
    (s.withEntry t e k).decideFront = s.decideFront.withEntry t e k := by
  unfold State.decideFront
  rw [withEntry_host]
  cases s.host.intake with
  | nil => rfl
  | cons q rest =>
    refine ite_withEntry .rfl (fun _ => rfl) fun _ => ?_
    cases q.req.body with
    | read a n =>
      dsimp only
      rw [readVerdict_idle (.inr h), readVerdict_idle (s := s.withEntry t e k) (.inr h)]
      exact settleFront_withEntry s t e k _ (.inl rfl)
    | write l m d g =>
      dsimp only
      rw [writeVerdict_faulted h, writeVerdict_faulted (s := s.withEntry t e k) h]
      rw [show (s.withEntry t e k).classify (l.toNat * 64) = s.classify (l.toNat * 64) from rfl]
      refine settleFront_withEntry s t e k _ ?_
      cases s.classify (l.toNat * 64) <;> simp
    | mark g kind =>
      dsimp only
      rw [markVerdict_faulted h, markVerdict_faulted (s := s.withEntry t e k) h]
      rfl

theorem redecidePaused_withEntry (h : s.bridge = .faulted) :
    (s.withEntry t e k).redecidePaused = s.redecidePaused.withEntry t e k :=
  ite_withEntry .rfl (fun _ => decideFront_withEntry s t e k h) fun _ => rfl

theorem answerFaulted_withEntry (x : Inflight) :
    (s.withEntry t e k).answerFaulted x = (s.answerFaulted x).withEntry t e k := by
  unfold State.answerFaulted
  cases x.work with
  | journaled => exact ite_withEntry .rfl (fun _ => answerWrite_withEntry s t e k _ _ _ _) fun _ => rfl
  | _ => rfl

theorem failRelease_withEntry : (s.withEntry t e k).failRelease = s.failRelease.withEntry t e k := by
  unfold State.failRelease
  rw [withEntry_link]
  cases s.link.state with
  | idle => rfl
  | executing code => exact ite_withEntry .rfl (fun _ => rfl) fun _ => rfl

theorem clearIdle_withEntry : (s.withEntry t e k).clearIdle = s.clearIdle.withEntry t e k := rfl
theorem dropRetry_withEntry : (s.withEntry t e k).dropRetry = s.dropRetry.withEntry t e k := rfl

/-- What follows the move to FAULTED and the withdrawal of the requests it cuts off (R75, R145). -/
def State.cutOff (s : State) : State :=
  (allSlots.foldl (fun s i => s.answerWaiter i fun _ => .failed .faulted)
    (s.host.inflight.foldl State.answerFaulted s)).clearIdle.dropRetry.failRelease

theorem cutOff_withEntry : (s.withEntry t e k).cutOff = s.cutOff.withEntry t e k := by
  have writes (l : List Inflight) : l.foldl State.answerFaulted (s.withEntry t e k) =
      (l.foldl State.answerFaulted s).withEntry t e k :=
    List.foldl_hom (fun u : State => u.withEntry t e k) fun u x => answerFaulted_withEntry u t e k x
  have waiters (u : State) : allSlots.foldl (fun s i => s.answerWaiter i fun _ => .failed .faulted) (u.withEntry t e k) =
      (allSlots.foldl (fun s i => s.answerWaiter i fun _ => .failed .faulted) u).withEntry t e k :=
    List.foldl_hom (fun u : State => u.withEntry t e k) fun u i => answerWaiter_withEntry u t e k i _
  unfold State.cutOff
  rw [withEntry_host, writes, waiters, clearIdle_withEntry, dropRetry_withEntry, failRelease_withEntry]

/-- The part as the entry to FAULTED finds it, the notice posted. -/
def State.faulting (s : State) (d : Detail) (pos : Nat) : State :=
  { s.post .logFaulted Key.zero d 0 pos with bridge := .faulted, start := none, resumeAt := none }

theorem enterFaulted_eq (d : Detail) (pos : Nat) : s.enterFaulted d pos =
    ((((s.faulting d pos).emptyHolds .faulted).redecidePaused).withdraw Ref.cutByFault).cutOff := rfl

theorem enterFaulted_withEntry (d : Detail) (pos : Nat) :
    (s.withEntry t e k).enterFaulted d pos = (s.enterFaulted d pos).withEntry t e k := by
  have hbridge : ((s.faulting d pos).emptyHolds .faulted).bridge = .faulted := by rw [emptyHolds_eq]; rfl
  rw [enterFaulted_eq, enterFaulted_eq,
    show (s.withEntry t e k).faulting d pos = (s.faulting d pos).withEntry t e k from rfl, emptyHolds_withEntry,
    redecidePaused_withEntry _ t e k hbridge, withdraw_withEntry, cutOff_withEntry]

/-! ### Records and writes -/

theorem failOwner_withEntry (pos : Nat) : (s.withEntry t e k).failOwner pos = (s.failOwner pos).withEntry t e k := by
  unfold State.failOwner
  rw [withEntry_ownerOf]
  cases s.ownerOf pos with
  | none => rfl
  | some x =>
    obtain ⟨source, tag, work, stage⟩ := x
    cases work with
    | journaled => exact answerWrite_withEntry s t e k _ _ _ _
    | _ => rfl

/-- The record has become a VOID, and its owner is not answered yet (R17, R18). -/
def State.voiding (s : State) (h : Header) (retry : Bool) (d : Detail) : State :=
  (({ s with log := { s.log with window := s.log.window.map fun r => if r.pos = h.pos then r.voided else r } } :
    State).writeRecord h.voided retry h.voided.bytes).post .recordVoided h.key d h.count h.pos

theorem voidRecord_eq (h : Header) (retry : Bool) (d : Detail) :
    s.voidRecord h retry d = ((s.voiding h retry d).failOwner h.pos).promote := rfl

theorem voidRecord_withEntry (h : Header) (retry : Bool) (d : Detail) :
    (s.withEntry t e k).voidRecord h retry d = (s.voidRecord h retry d).withEntry t e k := by
  rw [voidRecord_eq, voidRecord_eq,
    show (s.withEntry t e k).voiding h retry d = (s.voiding h retry d).withEntry t e k from rfl, failOwner_withEntry,
    promote_withEntry]

theorem biReadFailed_withEntry (pos : Nat) :
    (s.withEntry t e k).biReadFailed pos = (s.biReadFailed pos).withEntry t e k := by
  refine ite_withEntry .rfl (fun _ => rfl) fun _ => ?_
  rw [withEntry_windowAt]
  cases s.windowAt pos with
  | none => rfl
  | some h => exact voidRecord_withEntry s t e k h _ _

theorem recordFailed_withEntry (pos : Nat) :
    (s.withEntry t e k).recordFailed pos = (s.recordFailed pos).withEntry t e k := by
  refine ite_withEntry .rfl (fun _ => rfl) fun _ => ?_
  rw [withEntry_windowAt]
  cases s.windowAt pos with
  | none => rfl
  | some h => exact ite_withEntry .rfl (fun _ => voidRecord_withEntry s t e k h _ _) fun _ => rfl

theorem retryFailed_withEntry (pos : Nat) :
    (s.withEntry t e k).retryFailed pos = (s.retryFailed pos).withEntry t e k := by
  unfold State.retryFailed
  rw [withEntry_bridge]
  cases s.bridge with
  | recovering => exact enterFaulted_withEntry (s.post .recoveryFailed Key.zero .memError 0 pos) t e k _ _
  | running => exact enterFaulted_withEntry s t e k _ _
  | draining => exact enterFaulted_withEntry s t e k _ _
  | _ => rfl

theorem damage_withEntry (i : SlotNo) : (s.withEntry t e k).damage i = (s.damage i).withEntry t e k :=
  ite_withEntry .rfl
    (fun _ => refuseHeldWrites_withEntry (s.updSlot i fun g => { g with damaged := true }) t e k _ _) fun _ => rfl

theorem dataFailed_withEntry (source : Source) (tag : ReqTag) :
    (s.withEntry t e k).dataFailed source tag = (s.dataFailed source tag).withEntry t e k := by
  unfold State.dataFailed
  rw [withEntry_findInflight]
  cases s.findInflight source tag with
  | none => rfl
  | some x =>
    obtain ⟨source', tag', work, stage⟩ := x
    cases work with
    | journaled =>
      dsimp only
      rw [damage_withEntry, answerWrite_withEntry]
    | _ => rfl

theorem passAnswered_withEntry (source : Source) (tag : ReqTag) (a : Answer) :
    (s.withEntry t e k).passAnswered source tag a = (s.passAnswered source tag a).withEntry t e k :=
  promote_withEntry (s.answerAdmitted source tag a) t e k

/-! ### START and recovery -/

variable {e} in
theorem forgetRollback_withEntry (he : e.state ≠ .outstanding) :
    (s.withEntry t e k).forgetRollback = s.forgetRollback.withEntry t e k := by
  have kept : TagEntry.disown Ref.ofRollback e = e := if_neg he
  simp only [State.forgetRollback, State.disown, State.withEntry, Vector.map_set, kept]

variable {e} in
theorem failRecovery_withEntry (he : e.state ≠ .outstanding) (d : Detail) (pos : Nat) :
    (s.withEntry t e k).failRecovery d pos = (s.failRecovery d pos).withEntry t e k :=
  congrArg (fun u : State => { u with
    bridge := .gated
    start := none
    grp := GroupSide.reset
    log := { u.log with window := [], due := [], anchorOp := .idle, followUp := false } })
    (forgetRollback_withEntry (s.post .recoveryFailed Key.zero d 0 pos) t k he)

variable {e} in
theorem failFresh_withEntry (he : e.state ≠ .outstanding) :
    (s.withEntry t e k).failFresh = s.failFresh.withEntry t e k :=
  congrArg (fun u : State =>
    ({ u with start := none, log := { u.log with anchorOp := .idle } } : State).answerLink .memError [])
    (forgetRollback_withEntry s t k he)

variable {e} in
theorem anchorReadFailed_withEntry (he : e.state ≠ .outstanding) :
    (s.withEntry t e k).anchorReadFailed = s.anchorReadFailed.withEntry t e k := by
  unfold State.anchorReadFailed
  rw [withEntry_start]
  cases s.start with
  | none => rfl
  | some o =>
    dsimp only
    cases o.mode with
    | fresh => exact failFresh_withEntry s t k he
    | recover => exact failRecovery_withEntry s t k he _ _

variable {e} in
theorem scanFailed_withEntry (he : e.state ≠ .outstanding) :
    (s.withEntry t e k).scanFailed = s.scanFailed.withEntry t e k := by
  unfold State.scanFailed
  rw [withEntry_start]
  cases s.start with
  | none => rfl
  | some o => exact failRecovery_withEntry s t k he _ _

/-! ### Anchors -/

theorem anchorFailed_withEntry (c : Copy) (u : AnchorUse) :
    (s.withEntry t e k).anchorFailed c u = (s.anchorFailed c u).withEntry t e k :=
  ite_withEntry .rfl (fun _ => ite_withEntry .rfl (fun _ => rfl) fun _ => enterFaulted_withEntry
    (({ s with log := { s.log with failures := s.log.failures + 1, anchorOp := .idle } } : State).postAnchorError c)
    t e k _ _) fun _ => rfl

variable {e} in
/-- An anchor write fails: the use in progress says what follows (R23, R128, R137, R142, R144). -/
theorem anchorAnswered_withEntry (he : e.state ≠ .outstanding) :
    (s.withEntry t e k).anchorAnswered true = (s.anchorAnswered true).withEntry t e k := by
  unfold State.anchorAnswered
  rw [withEntry_log]
  cases s.log.anchorOp with
  | writing c a use =>
    cases use with
    | running => exact anchorFailed_withEntry s t e k c _
    | drain => exact anchorFailed_withEntry s t e k c _
    | freshFirst => exact failFresh_withEntry (s.postAnchorError c) t k he
    | freshSecond => exact failFresh_withEntry (s.postAnchorError c) t k he
    | recovery => exact failRecovery_withEntry (s.postAnchorError c) t k he _ _
    | beforeStop => rfl
    | stop => rfl
  | _ => rfl

/-! ### The walk -/

variable {s t e} in
/-- Only OUTSTANDING tags count as outstanding. -/
theorem outstanding_withEntry (hs : (s.tag t).state ≠ .outstanding) (he : e.state ≠ .outstanding) (p : Ref → Bool) :
    (s.withEntry t e k).outstanding p = s.outstanding p := by
  have htag (i : MTag) : (s.withEntry t e k).tag i = if t = i then e else s.tag i := State.tag_setTag s t i e
  refine congrArg (List.any allTags) (funext fun i => ?_)
  rw [htag]
  by_cases h : t = i
  · subst h
    simp [hs, he]
  · rw [if_neg h]

/-- A walk has failed, and what its engine waits for is not looked at yet (R105). -/
def State.walkCut (s : State) (w : Walk) (pos : Nat) (d : Detail) : State :=
  ((((s.updSlot w.slot fun g => { g with state := .broken }).answerWaiter w.slot fun _ => .failed .broken).postClose
    .groupBroken (s.slot w.slot) d pos).wakeReads (s.claimedLines w.slot)).withdraw Ref.ofRollback

/-- The engine of a failed walk is idle, unless a request of it is outstanding (R105). -/
def State.walkEnding (s : State) (w : Walk) : State :=
  s.setWalk (if s.outstanding Ref.ofRollback then some { w with phase := .ending, ahead := .none } else none)

theorem walkFail_eq (w : Walk) (pos : Nat) (d : Detail) : s.walkFail w pos d =
    if s.bridge = .recovering then ((s.walkCut w pos d).walkEnding w).faultRecovery d pos
    else (s.walkCut w pos d).walkEnding w := rfl

theorem quiet_walkCut (w : Walk) (pos : Nat) (d : Detail) : Quiet s (s.walkCut w pos d) :=
  ((((quiet_updSlot s w.slot fun g => { g with state := .broken }).trans
    (quiet_answerWaiter _ w.slot fun _ => .failed .broken)).trans (quiet_postClose _ .groupBroken _ d pos)).trans
      (quiet_wakeReads _ _)).trans (quiet_withdraw _ Ref.ofRollback)

theorem walkCut_withEntry (w : Walk) (pos : Nat) (d : Detail) :
    (s.withEntry t e k).walkCut w pos d = (s.walkCut w pos d).withEntry t e k :=
  congrArg (fun u : State => ((u.postClose .groupBroken (s.slot w.slot) d pos).wakeReads
    (s.claimedLines w.slot)).withdraw Ref.ofRollback)
    (answerWaiter_withEntry (s.updSlot w.slot fun g => { g with state := .broken }) t e k _ _)

section
variable {s t e} (hs : (s.tag t).state ≠ .outstanding) (he : e.state ≠ .outstanding)
include hs he

theorem walkFail_withEntry (w : Walk) (pos : Nat) (d : Detail) :
    (s.withEntry t e k).walkFail w pos d = (s.walkFail w pos d).withEntry t e k := by
  have ending : ((s.withEntry t e k).walkCut w pos d).walkEnding w =
      ((s.walkCut w pos d).walkEnding w).withEntry t e k := by
    have hcut : ((s.walkCut w pos d).tag t).state ≠ .outstanding := by rwa [(quiet_walkCut s w pos d).tagState]
    unfold State.walkEnding
    rw [walkCut_withEntry, outstanding_withEntry k hcut he]
    rfl
  rw [walkFail_eq, walkFail_eq, ending]
  exact ite_withEntry .rfl (fun _ => enterFaulted_withEntry
    (((s.walkCut w pos d).walkEnding w).post .recoveryFailed Key.zero d 0 pos) t e k _ _) fun _ => rfl

theorem endWalk_withEntry : (s.withEntry t e k).endWalk = s.endWalk.withEntry t e k :=
  ite_withEntry (by rw [outstanding_withEntry k hs he]) (fun _ => rfl) fun _ => rfl

theorem walkReadFailed_withEntry (pos : Nat) :
    (s.withEntry t e k).walkReadFailed pos = (s.walkReadFailed pos).withEntry t e k := by
  unfold State.walkReadFailed
  rw [withEntry_grp]
  cases s.grp.walk with
  | none => rfl
  | some w =>
    dsimp only
    cases w.phase with
    | ending => exact endWalk_withEntry k hs he
    | reading => exact ite_withEntry .rfl (fun _ => rfl) fun _ => walkFail_withEntry k hs he _ _ _
    | restoring => exact ite_withEntry .rfl (fun _ => rfl) fun _ => walkFail_withEntry k hs he _ _ _
    | suspended => exact ite_withEntry .rfl (fun _ => rfl) fun _ => rfl

theorem restoreFailed_withEntry : (s.withEntry t e k).restoreFailed = s.restoreFailed.withEntry t e k := by
  unfold State.restoreFailed
  rw [withEntry_grp]
  cases s.grp.walk with
  | none => rfl
  | some w =>
    dsimp only
    cases w.phase with
    | ending => exact endWalk_withEntry k hs he
    | restoring => exact walkFail_withEntry k hs he _ _ _
    | _ => rfl

/-! ### Every requester -/

/-- A rule that takes an ERROR commutes with a change of a tag that is not OUTSTANDING and of the counters. -/
theorem handError_withEntry (r : Ref) : (s.withEntry t e k).handError r = (s.handError r).withEntry t e k := by
  cases r with
  | biRead pos => exact biReadFailed_withEntry s t e k pos
  | recordWrite pos retry =>
    exact ite_withEntry .rfl (fun _ => retryFailed_withEntry s t e k pos) fun _ => recordFailed_withEntry s t e k pos
  | anchorWrite => exact anchorAnswered_withEntry s t k he
  | walkRead pos => exact walkReadFailed_withEntry k hs he pos
  | restore => exact restoreFailed_withEntry k hs he
  | scanRead => exact scanFailed_withEntry s t k he
  | anchorRead c => exact anchorReadFailed_withEntry s t k he
  | passRead source tag => exact passAnswered_withEntry s t e k source tag _
  | passWrite source tag => exact passAnswered_withEntry s t e k source tag _
  | dataWrite source tag => exact dataFailed_withEntry s t e k source tag
  | dropped => rfl
  | preReset => rfl

end

end

end Sys2Proof.Machine
end

section
/-! The expiry of a response limit: the tag is RETIRED and its requester is handed an ERROR, whichever it is (R117 to R119). -/

namespace Sys2Proof.Machine

/-! ### Retired, or answered by a failure of which no byte landed -/

/-- A WRITE of which no byte landed leaves memory. -/
theorem storeTo_none (q : MReq) (m : Memory) : q.storeTo 0 m = m := by
  have store_none (n : Nat) : m.store q.addr q.mask 0 q.data n = m := by
    induction n with
    | zero => rfl
    | succ n ih =>
      have hbit : (0 : BitVec 96).getLsbD n = false := BitVec.getLsbD_zero
      rw [Memory.store, ih, hbit, Bool.and_false, if_neg Bool.false_ne_true]
  rw [MReq.storeTo, store_none, ite_self]

theorem tag_withEntry_self (s : State) (t : MTag) (e : TagEntry) (k : Counters) : (s.withEntry t e k).tag t = e :=
  State.tag_setTag_self s t e

theorem withAnswer_failed (s : State) (t : MTag) :
    s.withAnswer t (.error 0) = (s.setTag t TagEntry.free).count Counters.memError := by
  change (({ s with mem := (s.tag t).req.storeTo 0 s.mem } : State).setTag t TagEntry.free).count Counters.memError = _
  rw [storeTo_none]

/-- A retired tag and the tag of a failed answer differ in the tag's entry only: the ERROR counts either way. -/
theorem retire_eq_withEntry (s : State) (t : MTag) :
    s.retire t = (s.withAnswer t (.error 0)).withEntry t { s.tag t with state := .retired }
      (s.withAnswer t (.error 0)).notes.counters := by
  rw [withAnswer_failed]
  simp [State.retire, State.withEntry, State.setTag, State.count]

/-- The rule that takes the ERROR of a failed answer leaves its tag FREE and counts nothing more. -/
theorem handError_withAnswer (s : State) (t : MTag) (r : Ref) :
    ((s.withAnswer t (.error 0)).handError r).tag t = TagEntry.free ∧
      ((s.withAnswer t (.error 0)).handError r).notes.counters = (s.withAnswer t (.error 0)).notes.counters := by
  have hfree : (s.withAnswer t (.error 0)).tag t = TagEntry.free := State.tag_settle_self s t (.error 0)
  have hidle : ((s.withAnswer t (.error 0)).tag t).state ≠ .outstanding := by rw [hfree]; nofun
  have hself := handError_withEntry (s.withAnswer t (.error 0)).notes.counters hidle hidle r
  rw [withEntry_self] at hself
  refine ⟨?_, congrArg (·.notes.counters) hself⟩
  rw [hself, tag_withEntry_self, hfree]

/-- An expired request's requester is left as by its failed answer, but for the tag (R117, R119). -/
theorem handError_retire (s : State) (t : MTag) (r : Ref) :
    (s.retire t).handError r =
      ((s.withAnswer t (.error 0)).handError r).setTag t { s.tag t with state := .retired } := by
  have hfree : (s.withAnswer t (.error 0)).tag t = TagEntry.free := State.tag_settle_self s t (.error 0)
  have hidle : ((s.withAnswer t (.error 0)).tag t).state ≠ .outstanding := by rw [hfree]; nofun
  have retired_ne : TagState.retired ≠ .outstanding := nofun
  rw [retire_eq_withEntry, handError_withEntry _ hidle (e := { s.tag t with state := .retired }) retired_ne,
    ← (handError_withAnswer s t r).2]
  rfl

/-! ### The failed answer of each requester -/

theorem anchorUse_eq_some {s : State} {u : AnchorUse} (h : s.anchorUse = some u) :
    ∃ c a, s.log.anchorOp = .writing c a u := by
  unfold State.anchorUse at h
  split at h
  · cases h
    exact ⟨_, _, ‹_›⟩
  · cases h

/-- Each failed answer is handed to the rule that takes the ERROR of an expired request. -/
theorem exec_failedAnswer {s : State} {t : MTag} {c : Instr} (hp : s.power = true)
    (ho : (s.tag t).state = .outstanding) (hc : s.failedAnswer t = some c) :
    exec c s = .next ((s.withAnswer t (.error 0)).handError (s.tag t).req.ref) := by
  have discarded (hr : (s.tag t).req.ref = .dropped ∨ (s.tag t).req.ref = .preReset) :
      exec (.preResetResponse t (.error 0)) s = .next (s.withAnswer t (.error 0)) :=
    (live_of_power hp fun s => s.takeAnswer t (.error 0) (fun _ => false) fun u _ => u).trans
      (congrArg _ (takeAnswer_discarded ho hr))
  unfold State.failedAnswer at hc
  cases hr : (s.tag t).req.ref with
  | biRead pos =>
    rw [hr] at hc; cases hc
    exact exec_biReadFailed hp ⟨ho, hr⟩
  | recordWrite pos retry =>
    rw [hr] at hc
    cases retry with
    | false => cases hc; exact exec_recordWriteFailed hp 0 ⟨ho, hr⟩
    | true => cases hc; exact exec_recordRetryFailed hp 0 ⟨ho, hr⟩
  | anchorWrite =>
    rw [hr] at hc
    dsimp only at hc
    cases hu : s.anchorUse with
    | none => rw [hu] at hc; cases hc
    | some use =>
      obtain ⟨copy, a, hop⟩ := anchorUse_eq_some hu
      rw [hu] at hc
      cases use with
      | running => cases hc; exact exec_anchorWriteFailed hp ⟨ho, hr⟩ hop 0 (.inl rfl)
      | drain => cases hc; exact exec_anchorWriteFailed hp ⟨ho, hr⟩ hop 0 (.inr rfl)
      | freshFirst => cases hc; exact exec_freshAnchorAnswered hp ⟨ho, hr⟩ hop (.error 0) (.inl rfl)
      | freshSecond => cases hc; exact exec_freshAnchorAnswered hp ⟨ho, hr⟩ hop (.error 0) (.inr rfl)
      | recovery => cases hc; exact exec_recoveryDone hp ⟨ho, hr⟩ hop (.error 0) rfl
      | beforeStop => cases hc; exact exec_stopAnchorAnswered hp ⟨ho, hr⟩ hop (.error 0) (.inl rfl)
      | stop => cases hc; exact exec_stopAnchorAnswered hp ⟨ho, hr⟩ hop (.error 0) (.inr rfl)
  | walkRead pos =>
    rw [hr] at hc; cases hc
    exact exec_walkReadAnswered hp ⟨ho, hr⟩ (.error 0)
  | restore =>
    rw [hr] at hc; cases hc
    exact exec_restoreAnswered hp ⟨ho, hr⟩ (.error 0)
  | scanRead =>
    rw [hr] at hc; cases hc
    exact exec_scanReadAnswered hp (.error 0) ⟨ho, hr⟩
  | anchorRead copy =>
    rw [hr] at hc; cases hc
    exact exec_anchorReadAnswered hp (.error 0) ⟨ho, hr⟩
  | passRead src tag =>
    rw [hr] at hc; cases hc
    exact exec_passReadAnswered hp (.error 0) ⟨ho, hr⟩
  | passWrite src tag =>
    rw [hr] at hc; cases hc
    exact exec_passWriteAnswered hp (.error 0) ⟨ho, hr⟩
  | dataWrite src tag =>
    rw [hr] at hc; cases hc
    exact exec_dataWriteFailed hp ⟨ho, hr⟩ 0
  | dropped =>
    rw [hr] at hc; cases hc
    exact discarded (.inl hr)
  | preReset =>
    rw [hr] at hc; cases hc
    exact discarded (.inr hr)

/-! ### A pass-through access -/

/-- No write that waits at the frontier is DONE, so the data phases that begin leave a DONE request DONE. -/
theorem dataPhases_done {s : State} {before es es' : List Inflight} {qs : List MReq} (h : DataPhases s before es es' qs)
    {src : Source} {tag : ReqTag} (hdone : ∀ e ∈ es, e.source = src → e.tag = tag → e.stage = .done) :
    ∀ e ∈ es', e.source = src → e.tag = tag → e.stage = .done := by
  induction h with
  | nil => exact hdone
  | begins _ _ ih =>
    obtain ⟨first, rest⟩ := List.forall_mem_cons.1 hdone
    exact List.forall_mem_cons.2 ⟨fun hs ht => (nomatch first hs ht), ih rest⟩
  | stays _ _ ih =>
    obtain ⟨first, rest⟩ := List.forall_mem_cons.1 hdone
    exact List.forall_mem_cons.2 ⟨first, ih rest⟩

/-- An answered access has its response, its in-flight entry is DONE, and group and log side stand. -/
theorem passAnswered_outcome (s : State) (src : Source) (tag : ReqTag) (ans : Answer) :
    (s.passAnswered src tag ans).host.responses = s.host.responses ++ [⟨src, tag, ans, true⟩] ∧
      (∀ e ∈ (s.passAnswered src tag ans).host.inflight, e.source = src → e.tag = tag → e.stage = .done) ∧
      (s.passAnswered src tag ans).grp = s.grp ∧ (s.passAnswered src tag ans).log = s.log := by
  obtain ⟨qs, hphases, heq⟩ := dataPhasesBegin_passAnswered s src tag ans
  refine ⟨(congrArg (·.host.responses) heq :), dataPhases_done hphases fun e he => ?_, (congrArg State.grp heq :),
    (congrArg State.log heq :)⟩
  obtain ⟨x, -, rfl⟩ := List.mem_map.1 he
  by_cases hx : x.source = src ∧ x.tag = tag
  · simp [hx]
  · rw [if_neg hx]
    exact fun hs ht => absurd ⟨hs, ht⟩ hx

/-! ### The row -/

theorem exec_responseLimitExpiry {s : State} (hp : s.power = true) (t : MTag) :
    exec (.responseLimitExpiry t) s = .next (if (s.tag t).state = .outstanding ∧ (s.tag t).limit ≤ s.now
      then (s.retire t).handError (s.tag t).req.ref else s) :=
  live_of_power hp _

theorem sameSetup_of_steady {s u : State} (h : Steady s u) : SameSetup s u :=
  ⟨h.power, h.regions, h.geometry, h.straps, h.lock, h.policy, h.mask, h.pfwHigh, h.now, h.pending⟩

/-- Settles O37: the ERROR of a limit is taken as a failed answer is, because that rule commutes with a change of the
tag's entry. -/
theorem responseLimitExpiry : Obligations.ResponseLimitExpiry := by
  intro s t hp
  refine ⟨fun h => by rw [exec_responseLimitExpiry hp, if_neg h], fun ho hl => ?_⟩
  have hexec : exec (.responseLimitExpiry t) s = .next ((s.retire t).handError (s.tag t).req.ref) := by
    rw [exec_responseLimitExpiry hp, if_pos ⟨ho, hl⟩]
  have hfailed := handError_retire s t (s.tag t).req.ref
  obtain ⟨hfree, hcounters⟩ := handError_withAnswer s t (s.tag t).req.ref
  have hsteady := steady_handError (s.retire t) (s.tag t).req.ref
  have hother (i : MTag) (hi : i ≠ t) : (s.retire t).tag i = s.tag i :=
    (State.tag_setTag s t i _).trans (if_neg hi.symm)
  refine ⟨⟨_, hexec, ?_, fun i hi => ?_, hsteady.mem, ?_, (sameSetup_of_steady hsteady :)⟩, fun c hc => ?_, ?_⟩
  · rw [hfailed, State.tag_setTag_self]
  · rw [hsteady.tagState, hsteady.tagCls, hother i hi]
    exact ⟨rfl, rfl⟩
  · rw [hfailed]
    exact congrArg Counters.memErrors hcounters
  · exact ⟨_, exec_failedAnswer hp ho hc, by rw [hfree]; rfl, hexec.trans (congrArg _ hfailed)⟩
  · rintro src tag (hr | hr) <;>
    · rw [hr] at hexec
      exact ⟨_, hexec, passAnswered_outcome (s.retire t) src tag _⟩

end Sys2Proof.Machine
end

section
/-! START FRESH and START RECOVER: their checks, and what taking them leaves (R135 to R138). -/

namespace Sys2Proof.Machine

/-! ### The commands -/

theorem exec_startFresh {s : State} (h : s.linkReady) :
    exec .startFresh s = .next ((s.withCommand 0x09 [1]).cmdStartFresh) :=
  live_takeCommand h 0x09 [1] State.cmdStartFresh

theorem exec_startRecover {s : State} (h : s.linkReady) :
    exec .startRecover s = .next ((s.withCommand 0x09 [2]).cmdStartRecover) :=
  live_takeCommand h 0x09 [2] State.cmdStartRecover

/-- At lock level 0 the command is not blocked (R153). -/
theorem lockedAt_withCommand {s : State} (hlock : s.link.lock.val = 0) (code : Nat) (ps : List Byte) :
    (s.withCommand code ps).lockedAt 1 = false := by
  simp [State.lockedAt, State.withCommand, hlock]

theorem startRefusal_withCommand (s : State) (code : Nat) (ps : List Byte) :
    (s.withCommand code ps).startRefusal = s.startRefusal := rfl

/-! ### The checks (R135) -/

/-- START has the geometry and the bridge state it needs. -/
def State.Startable (s : State) : Prop := s.log.geometry ≠ none ∧ (s.bridge = .gated ∨ s.bridge = .faulted)

/-- In FAULTED a write is in flight, or an M-port request is unanswered. -/
def State.StartBusy (s : State) : Prop :=
  s.bridge = .faulted ∧ ((∃ e ∈ s.host.inflight, e.work.isWrite = true) ∨
    (∃ t, (s.tag t).state = .outstanding) ∨ ∃ c, s.mport.queue c ≠ [])

theorem queue_ne_nil_iff (p : MPort) : (∃ c, p.queue c ≠ []) ↔ p.logQ ≠ [] ∨ p.rollbackQ ≠ [] ∨ p.trafficQ ≠ [] := by
  constructor
  · rintro ⟨c, h⟩
    cases c with
    | log => exact .inl h
    | rollback => exact .inr (.inl h)
    | traffic => exact .inr (.inr h)
  · rintro (h | h | h)
    exacts [⟨.log, h⟩, ⟨.rollback, h⟩, ⟨.traffic, h⟩]

theorem startBusy_iff (s : State) : s.startBusy = true ↔ s.StartBusy := by
  simp [State.startBusy, State.StartBusy, outstanding_iff, queue_ne_nil_iff, or_assoc]

section
variable {s : State}

theorem startRefusal_of_not_startable (h : ¬ s.Startable) : s.startRefusal = some .state := by
  unfold State.startRefusal
  by_cases hg : s.log.geometry = none
  · rw [if_pos hg]
  · rw [if_neg hg, if_pos (not_or.1 fun hb => h ⟨hg, hb⟩)]

theorem startRefusal_of_startable (h : s.Startable) :
    s.startRefusal = if s.startBusy = true then some .busy else none := by
  obtain ⟨hg, hb⟩ := h
  unfold State.startRefusal
  rw [if_neg hg, if_neg fun hn => not_or.2 hn hb]

/-- A check that fails is START RECOVER's answer, and at lock level 0 that of START FRESH. -/
theorem exec_start_refused (h : s.linkReady) {st : Status} (hr : s.startRefusal = some st) :
    exec .startRecover s = .next (s.answerLink st []) ∧
      (s.link.lock.val = 0 → exec .startFresh s = .next (s.answerLink st [])) := by
  refine ⟨?_, fun hlock => ?_⟩
  · rw [exec_startRecover h, State.cmdStartRecover, startRefusal_withCommand, hr]
    rfl
  · rw [exec_startFresh h, State.cmdStartFresh, lockedAt_withCommand hlock, startRefusal_withCommand, hr]
    rfl

/-! ### START taken -/

/-- START is taken: the tables and positions of the old run are emptied, its ROLLBACK requests have no requester any more,
and these READs join the ROLLBACK queue. -/
def State.afterStart (s : State) (m : StartMode) (b : Bridge) (l : LinkState) (a : Buffer) (reads : List MReq) : State :=
  { s with
    bridge := b
    start := some (StartOp.begin m)
    host := { s.host with holds := [] }
    grp := GroupSide.reset
    log := LogSide.reset s.log.geometry
    mport := { s.mport.stale with rollbackQ := s.mport.stale.rollbackQ ++ reads }
    link := { s.link with state := l, buffer := a } }

/-- The READs of both anchor copies, A's before B's (log 52). -/
def State.anchorReads (s : State) : List MReq :=
  [⟨.anchorRead .a, false, s.geo.base, 64, 0, []⟩, ⟨.anchorRead .b, false, s.geo.base + 64, 64, 0, []⟩]

theorem readAnchors_eq (s : State) : s.readAnchors =
    { s with mport := { s.mport with rollbackQ := s.mport.rollbackQ ++ s.anchorReads } } := by
  change ({ s with mport := { s.mport with rollbackQ := (s.mport.rollbackQ ++ [_]) ++ [_] } } : State) = _
  rw [List.append_assoc]
  rfl

theorem openStart_withCommand (code : Nat) (ps : List Byte) (m : StartMode) (b : Bridge) :
    (s.withCommand code ps).openStart m b = s.afterStart m b (.executing code ps) .none [] := by
  simp only [State.afterStart, List.append_nil]
  rfl

theorem exec_startFresh_taken (h : s.linkReady) (hr : s.startRefusal = none) (hlock : s.link.lock.val = 0) :
    exec .startFresh s = .next (s.afterStart .fresh .gated (.executing 0x09 [1]) .none s.anchorReads) := by
  rw [exec_startFresh h, State.cmdStartFresh, lockedAt_withCommand hlock, startRefusal_withCommand, hr]
  change Host.Outcome.next (State.readAnchors _) = _
  rw [openStart_withCommand, readAnchors_eq]
  simp only [State.afterStart, List.append_nil]
  rfl

theorem exec_startRecover_eq (h : s.linkReady) (hr : s.startRefusal = none) :
    exec .startRecover s = .next (if s.pfwAsserted = true
      then (s.afterStart .recover .recovering .idle (.answer .ok []) []).failRecovery .power 0
      else (s.afterStart .recover .recovering .idle (.answer .ok []) []).readAnchors) := by
  rw [exec_startRecover h, State.cmdStartRecover, startRefusal_withCommand, hr]
  dsimp only
  rw [openStart_withCommand]
  rfl

theorem exec_startRecover_taken (h : s.linkReady) (hr : s.startRefusal = none) (hpfw : s.pfwAsserted = false) :
    exec .startRecover s = .next (s.afterStart .recover .recovering .idle (.answer .ok []) s.anchorReads) := by
  rw [exec_startRecover_eq h hr, hpfw, if_neg Bool.false_ne_true, readAnchors_eq]
  simp only [State.afterStart, List.append_nil]
  rfl

/-! ### Recovery stopped at once (R133, R138) -/

theorem stale_stale (q : MReq) : q.stale.stale = q.stale := by
  unfold MReq.stale
  by_cases h : q.ref.ofRollback = true
  · rw [if_pos h]
    rfl
  · rw [if_neg h, if_neg h]

theorem tagStale_stale (e : TagEntry) : e.stale.stale = e.stale := by
  unfold TagEntry.stale
  by_cases h : e.state = .outstanding
  · rw [if_pos h, if_pos h, stale_stale]
  · rw [if_neg h, if_neg h]

theorem mportStale_stale (p : MPort) : p.stale.stale = p.stale := by
  simp [MPort.stale, Function.comp_def, stale_stale, tagStale_stale]

theorem exec_startRecover_power (h : s.linkReady) (hr : s.startRefusal = none) (hpfw : s.pfwAsserted = true) :
    exec .startRecover s = .next { s.afterStart .recover .gated .idle (.answer .ok []) [] with
      start := none
      notes := (s.post .recoveryFailed Key.zero .power 0 0).notes } := by
  have hmport : (s.afterStart .recover .recovering .idle (.answer .ok []) []).mport = s.mport.stale := by
    simp only [State.afterStart, List.append_nil]
  rw [exec_startRecover_eq h hr, if_pos hpfw, failRecovery_eq, State.backInGated, hmport, mportStale_stale]
  simp only [State.afterStart, List.append_nil]
  rfl

end

/-- Settles O55, by the checks in their order. -/
theorem startTaken : Obligations.StartTaken := by
  intro s h base busy stateful taken anchors
  have hbusy : s.startBusy = true ↔ busy := startBusy_iff s
  refine ⟨fun hn => exec_start_refused h (startRefusal_of_not_startable hn), fun hs hb => ?_, fun hs hb => ?_⟩
  · exact exec_start_refused h (by rw [startRefusal_of_startable hs, if_pos (hbusy.2 hb)])
  · have hr : s.startRefusal = none := by rw [startRefusal_of_startable hs, if_neg (mt hbusy.1 hb)]
    exact ⟨exec_startFresh_taken h hr, exec_startRecover_taken h hr, exec_startRecover_power h hr⟩

end Sys2Proof.Machine
end

section
/-! Commands blocked by the lock level, and the commands that set the lock level, the notice mask and the counters (R152,
R153, R159, R165, R167). -/

namespace Sys2Proof.Machine

/-! ### The commands and their checks -/

section
variable {s : State} (h : s.linkReady)
include h

/-- What SET_LOCK does, by its checks in their order (R153). -/
theorem exec_setLock (n : Nat) : exec (.setLock n) s = .next
    (if hn : n < 4 then
      if n < s.link.lock.val then s.answerLink .locked []
      else { s with link := { s.link with lock := ⟨n, hn⟩ } }.answerLink .ok []
    else s.answerLink .range []) := live_takeCommand h 0x13 (leBytes 1 n) fun t => t.cmdSetLock n

/-- What SET_NOTICE_MASK does, by its check (R159). -/
theorem exec_setNoticeMask (n : Nat) : exec (.setNoticeMask n) s = .next
    (if n < 16 then { s with notes := { s.notes with mask := BitVec.ofNat 4 n } }.answerLink .ok []
    else s.answerLink .range []) := live_takeCommand h 0x10 (leBytes 1 n) fun t => t.cmdSetNoticeMask n

/-- What CLEAR_COUNTERS does, by its check (R153, R167). -/
theorem exec_clearCounters : exec .clearCounters s = .next
    (if 3 ≤ s.link.lock.val then s.answerLink .locked []
    else { s with notes := { s.notes with counters := Counters.zero } }.answerLink .ok []) := by
  refine (live_takeCommand h _ _ _).trans ?_
  simp only [State.cmdClearCounters, State.lockedAt, decide_eq_true_eq]
  rfl

end

section
variable {s : State} {a b : Nat} (hkey : decodeKey a b ≠ none) (hl : s.link.lock.val = 3)
include hkey hl

/-- ABANDON_GROUP's level is checked before the bridge state and the group (R152). -/
theorem cmdAbandonGroup_locked : s.cmdAbandonGroup a b = s.answerLink .locked [] := by
  obtain ⟨k, hk⟩ := Option.ne_none_iff_exists'.1 hkey
  simp [State.cmdAbandonGroup, hk, State.lockedAt, hl, State.deny]

/-- RELEASE_BROKEN's level is checked before the bridge state and the group (R152). -/
theorem cmdReleaseBroken_locked : s.cmdReleaseBroken a b = s.answerLink .locked [] := by
  obtain ⟨k, hk⟩ := Option.ne_none_iff_exists'.1 hkey
  simp [State.cmdReleaseBroken, hk, State.lockedAt, hl, State.deny]

end

theorem cmdStartFresh_locked {s : State} (hl : 1 ≤ s.link.lock.val) : s.cmdStartFresh = s.answerLink .locked [] := by
  simp [State.cmdStartFresh, State.lockedAt, hl, State.deny]

/-! ### The statements -/

/-- Settles O8: in each command the range check passes and the level's check answers. -/
theorem lockBlocksItsCommands : Obligations.LockBlocksItsCommands := by
  intro s h
  refine ⟨fun b k hb hl => ?_, fun hl => ?_, fun p hp hl => ?_, fun n hn hl => ?_, fun p hp hl => ?_,
    fun a b hkey hl => ⟨?_, ?_⟩, fun hl => ?_⟩
  · have hr : 7 ≤ k ∧ k ≤ 21 ∧ b % 4096 = 0 ∧ b + 128 + 32 * 2 ^ k ≤ 2 ^ 36 :=
      by_contra fun hn => hb ((decodeGeometry_eq b k).trans (if_neg hn))
    rw [exec_setLog h, if_pos hr, if_pos hl]
  · exact (exec_startFresh h).trans (congrArg _ (cmdStartFresh_locked hl))
  · have hr : RegionInRange p := by_contra fun hn => hp (regionDecode_outOfRange hn)
    rw [exec_setRegion h hr (i := ⟨p.index, hr.1⟩) rfl, if_pos hl]
  · rw [exec_clearRegion h ⟨n, hn⟩, if_pos hl]
  · have hr : PolicyInRange p := by_contra fun hn => hp ((policyDecode_eq p).trans (if_neg hn))
    rw [exec_setPolicy h, if_pos hr, if_pos hl.ge]
  · exact (exec_abandonGroup h a b).trans (congrArg _ (cmdAbandonGroup_locked hkey hl))
  · exact (exec_releaseBroken h a b).trans (congrArg _ (cmdReleaseBroken_locked hkey hl))
  · rw [exec_clearCounters h, if_pos hl.ge]

/-- Settles O13: each clause takes its branch of the checks. -/
theorem lockMaskAndCounters : Obligations.LockMaskAndCounters := by
  intro s h
  refine ⟨fun n hn => ?_, fun n hl => ?_, fun k hl => ?_, fun n hn => ?_, fun n hn => ?_, fun hl => ?_, fun hl => ?_⟩
  · rw [exec_setLock h, dif_neg (by omega)]
  · rw [exec_setLock h, dif_pos (lt_trans hl s.link.lock.isLt), if_pos hl]
  · rw [exec_setLock h, dif_pos k.isLt, if_neg (not_lt.2 (Fin.le_def.1 hl))]
  · rw [exec_setNoticeMask h, if_neg (not_lt.2 hn)]
  · rw [exec_setNoticeMask h, if_pos hn]
  · rw [exec_clearCounters h, if_pos hl.ge]
  · rw [exec_clearCounters h, if_neg (not_le.2 hl)]
    rfl

end Sys2Proof.Machine
end

section
/-! Notices: POP_NOTICE and its layout, the placing of a notice in the queue, and the IRQ line (R159, R161 to R165, section
12.5). -/

namespace Sys2Proof.Machine

/-! ### The 16 bytes of an entry (section 12.5) -/

theorem NoticeKind.code_lt (k : NoticeKind) : k.code < 256 := by cases k <;> decide

theorem Detail.code_lt (d : Detail) : d.code < 256 := by
  cases d with
  | cause c => cases c <;> decide
  | copy c => cases c <;> decide
  | anchorState st => cases st <;> decide
  | resume p => cases p <;> decide
  | _ => decide

theorem noticeBytes_layout (n : Notice) :
    n.bytes.length = 16 ∧ field n.bytes 0 1 = n.kind.code ∧ field n.bytes 1 1 = n.lost % 256 ∧
    field n.bytes 2 2 = n.number % 65536 ∧ field n.bytes 4 1 = n.key.source.val * 16 + n.key.group.val ∧
    field n.bytes 5 1 = n.detail.code ∧ field n.bytes 6 2 = n.count % 65536 ∧
    field n.bytes 8 8 = n.position % 2 ^ 64 := by
  simp [Notice.bytes, field_leBytes_append, field_leBytes_append_of_le, field_byte, field_byte_of_pos, field_leBytes,
    Key.byte_toNat, Nat.mod_eq_of_lt n.kind.code_lt, Nat.mod_eq_of_lt n.detail.code_lt]

/-! ### The queue (R161, R162, R164) -/

section
variable {s : State} (h : s.linkReady)
include h

theorem exec_popNotice_empty (hq : s.notes.queue = []) : exec .popNotice s = .next (s.answerLink .empty []) := by
  refine (live_takeCommand h _ _ _).trans ?_
  simp only [State.cmdPopNotice, State.withCommand, hq]
  rfl

/-- The oldest entry leaves the queue in the answer (R164). -/
theorem exec_popNotice_cons {n : Notice} {rest : List Notice} (hq : s.notes.queue = n :: rest) :
    exec .popNotice s = .next ({ s with notes := { s.notes with queue := rest } }.answerLink .ok n.bytes) := by
  refine (live_takeCommand h _ _ _).trans ?_
  simp only [State.cmdPopNotice, State.withCommand, hq]
  rfl

end

theorem placeNotice_of_room {q : List Notice} (n : Notice) (h : q.length < 16) : placeNotice q n = q ++ [n] := if_pos h

/-- A full queue keeps all entries but the newest, which the new one takes into its lost count (R162). -/
theorem placeNotice_full {older : List Notice} (newest n : Notice) (h : older.length = 15) :
    placeNotice (older ++ [newest]) n = older ++ [{ n with lost := min 255 (newest.lost + 1) }] := by
  have hfull : ¬ (older ++ [newest]).length < Config.noticeDepth := by simp [h, Config.noticeDepth]
  rw [placeNotice, if_neg hfull]
  simp

/-! ### The IRQ line (R163, R165) -/

/-- A kind's class is in a mask. -/
theorem maskHasClass_iff (m : BitVec 4) (k : NoticeKind) : m.getLsbD k.classBit = true ↔
    (m.getLsbD 0 = true ∧ k ∈ [.groupCommitted, .groupRolledBack, .groupReleased]) ∨
    (m.getLsbD 1 = true ∧ k ∈ [.groupBroken, .recordVoided, .anchorError, .logFaulted, .recoveryFailed]) ∨
    (m.getLsbD 2 = true ∧ k ∈ [.drainDone, .resumed, .recoveryDone]) ∨ (m.getLsbD 3 = true ∧ k = .logLow) := by
  cases k <;> simp [NoticeKind.classBit]

/-! ### The statement -/

/-- Settles O14: the queue by POP_NOTICE and by the placing of an entry, the IRQ line by the classes of its entries. -/
theorem popNoticeAnswered : Obligations.PopNoticeAnswered := by
  refine ⟨fun s h => ⟨fun hq => exec_popNotice_empty h hq, fun n rest hq => ?_⟩, fun s kind key d count pos => ?_,
    fun n => ?_⟩
  · exact ⟨n.bytes, exec_popNotice_cons h hq, noticeBytes_layout n⟩
  · intro entry posted
    have hpost : s.post kind key d count pos = posted (placeNotice s.notes.queue (entry 0)) := rfl
    refine ⟨fun hroom => ?_, fun older newest hq hfull => ?_⟩
    · rw [hpost, placeNotice_of_room _ hroom]
    · rw [hpost, hq, placeNotice_full newest _ hfull]
  · simp only [NoticeUnit.irqLow, List.any_eq_true, maskHasClass_iff]

end Sys2Proof.Machine
end

section
/-! Frames: how a write transfer's bytes are collected and tested, that a sound frame does what its command's row does, and
what the target acknowledges and sends (R147 to R152, R169). -/

namespace Sys2Proof.Machine

/-! ### The collected frame (R148) -/

/-- A frame of a write transfer is overlong once a byte came behind the 35 that are stored. -/
theorem foldl_take_overlong (bs : List Byte) (f : Frame) (h : f.stored.length ≤ Config.frameBytes) :
    (bs.foldl Frame.take f).overlong = (f.overlong || decide (Config.frameBytes < f.stored.length + bs.length)) := by
  induction bs generalizing f with
  | nil => simp [h]
  | cons b bs ih =>
    rw [List.foldl_cons]
    by_cases hl : f.stored.length < Config.frameBytes
    · have hstep : f.take b = { f with stored := f.stored ++ [b] } := if_pos hl
      rw [hstep, ih _ (by simpa using hl)]
      simp [Nat.add_assoc, Nat.add_comm 1]
    · have hstep : f.take b = { f with overlong := true } := if_neg hl
      have hfull : Config.frameBytes < f.stored.length + (b :: bs).length := by
        rw [List.length_cons]
        omega
      rw [hstep, ih { f with overlong := true } h, decide_eq_true hfull]
      simp

theorem Frame.eq_mk {f : Frame} {bs : List Byte} {b : Bool} (hstored : f.stored = bs) (hover : f.overlong = b) :
    f = ⟨bs, b⟩ := by
  subst hstored hover
  rfl

theorem collect_eq (bs : List Byte) : Frame.collect bs = ⟨bs.take 35, decide (35 < bs.length)⟩ :=
  Frame.eq_mk (by simpa [Config.frameBytes, Frame.collect] using foldl_take_stored bs ⟨[], false⟩ (Nat.zero_le _))
    (by simpa [Config.frameBytes, Frame.collect] using foldl_take_overlong bs ⟨[], false⟩ (Nat.zero_le _))

/-! ### The tests of a frame (R149) -/

/-- The size, check and length tests of a frame pass. -/
structure FrameSound (bs : List Byte) : Prop where
  min : 3 ≤ bs.length
  max : bs.length ≤ 35
  sum : byteSum bs = 0
  len : field bs 1 1 = bs.length - 3

theorem collect_of_sound {bs : List Byte} (h : FrameSound bs) : Frame.collect bs = ⟨bs, false⟩ := by
  rw [collect_eq, List.take_of_length_le h.max, decide_eq_false (not_lt.2 h.max)]

section
variable (s : State) {bs : List Byte}

theorem endFrame_of_unsound
    (h : bs.length < 3 ∨ 35 < bs.length ∨ byteSum bs ≠ 0 ∨ field bs 1 1 ≠ bs.length - 3) :
    s.endFrame (Frame.collect bs) = s.judgeFrame .frameError := by
  rw [collect_eq]
  by_cases hmax : 35 < bs.length
  · simp [State.endFrame, hmax]
  rw [List.take_of_length_le (not_lt.1 hmax)]
  by_cases hmin : bs.length < 3
  · simp [State.endFrame, hmin]
  by_cases hsum : byteSum bs = 0#8
  · have hlen : field bs 1 1 ≠ bs.length - 3 := by tauto
    simp [State.endFrame, hmin, hmax, hsum, hlen]
  · simp [State.endFrame, hmin, hmax, hsum]

section
variable (h : FrameSound bs)
include h

theorem endFrame_of_unknown (hcode : paramCount (field bs 0 1) = none) :
    s.endFrame (Frame.collect bs) = s.judgeFrame .unknown := by
  rw [collect_of_sound h]
  simp [State.endFrame, not_lt.2 h.min, h.sum, h.len, hcode]

theorem endFrame_of_miscount {n : Nat} (hcode : paramCount (field bs 0 1) = some n) (hn : n ≠ field bs 1 1) :
    s.endFrame (Frame.collect bs) = s.judgeFrame .frameError := by
  rw [collect_of_sound h]
  simp [State.endFrame, not_lt.2 h.min, h.sum, h.len, hcode, h.len ▸ hn.symm]

theorem endFrame_of_command (hcode : paramCount (field bs 0 1) = some (field bs 1 1)) :
    s.endFrame (Frame.collect bs) = s.takeCommand (field bs 0 1) ((bs.drop 2).take (field bs 1 1))
      fun t => t.runCommand (field bs 0 1) ((bs.drop 2).take (field bs 1 1)) := by
  rw [collect_of_sound h]
  simp [State.endFrame, not_lt.2 h.min, h.sum, h.len, h.len ▸ hcode]

end

end

/-! ### Which transfers are judged (R147, R149) -/

theorem exec_commandFrame {s : State} (h : s.linkReady) (a : BitVec 7) (bs : List Byte) :
    exec (.commandFrame a bs) s =
      .next (if a = s.targetAddress ∧ bs ≠ [] then s.endFrame (Frame.collect bs) else s) := by
  obtain ⟨hpower, hidle⟩ := h
  have hrow : exec (.commandFrame a bs) s = .next (s.writeTransfer a bs) := live_of_power hpower _
  rw [hrow]
  simp [State.writeTransfer, State.acksAddress, hidle]

/-- The codes of commands, and the longest parameter list (R149, R152). -/
theorem paramCount_bounds {code n : Nat} (h : paramCount code = some n) : n ≤ 19 ∧ 1 ≤ code ∧ code ≤ 0x13 := by
  unfold paramCount at h
  split at h
  all_goals cases h
  all_goals decide

theorem paramCount_eq_none {code : Nat} (h : code = 0 ∨ 0x13 < code) : paramCount code = none := by
  refine Option.eq_none_iff_forall_ne_some.2 fun n hn => ?_
  obtain ⟨-, hmin, hmax⟩ := paramCount_bounds hn
  omega

/-! ### Parameters as bytes (R168, R169) -/

theorem leBytes_leValue (bs : List Byte) : leBytes bs.length (leValue bs) = bs := by
  induction bs with
  | nil => rfl
  | cons b bs ih =>
    have hb := b.isLt
    rw [List.length_cons, leBytes, leValue, Nat.add_mul_div_left _ _ (by decide), Nat.div_eq_of_lt hb, Nat.zero_add, ih]
    have hlow : BitVec.ofNat 8 (b.toNat + 256 * leValue bs) = b :=
      BitVec.eq_of_toNat_eq (by rw [BitVec.toNat_ofNat]; omega)
    rw [hlow]

theorem leBytes_field {bs : List Byte} {o w : Nat} (h : o + w ≤ bs.length) :
    leBytes w (field bs o w) = (bs.drop o).take w := by
  have hlen : ((bs.drop o).take w).length = w := by simp; omega
  simpa only [hlen, field] using leBytes_leValue ((bs.drop o).take w)

/-- A layout read field by field is written back field by field. -/
theorem take_append_leBytes_field {bs : List Byte} {o w : Nat} (h : o + w ≤ bs.length) :
    bs.take o ++ leBytes w (field bs o w) = bs.take (o + w) := by
  rw [leBytes_field h, List.take_add]

theorem leBytes_field_zero {bs : List Byte} {w : Nat} (h : w ≤ bs.length) : leBytes w (field bs 0 w) = bs.take w := by
  rw [leBytes_field (by omega), List.drop_zero]

section
variable {ps : List Byte}

theorem leBytes_one_param (h : ps.length = 1) : leBytes 1 (field ps 0 1) = ps := by
  rw [leBytes_field_zero h.ge, List.take_of_length_le h.le]

theorem leBytes_param_of_eq {n : Nat} (h : ps.length = 1) (hn : field ps 0 1 = n) : leBytes 1 n = ps :=
  hn ▸ leBytes_one_param h

theorem leBytes_two_params (h : ps.length = 2) : leBytes 1 (field ps 0 1) ++ leBytes 1 (field ps 1 1) = ps := by
  rw [leBytes_field_zero (by omega), take_append_leBytes_field (by omega), List.take_of_length_le (by omega)]

theorem leBytes_geometry_params (h : ps.length = 9) : leBytes 8 (field ps 0 8) ++ leBytes 1 (field ps 8 1) = ps := by
  rw [leBytes_field_zero (by omega), take_append_leBytes_field (by omega), List.take_of_length_le (by omega)]

theorem regionParamBytes_parse (h : ps.length = 19) : regionParamBytes (RegionParams.parse ps) = ps := by
  simp only [regionParamBytes, RegionParams.parse]
  rw [leBytes_field_zero (by omega)]
  repeat rw [take_append_leBytes_field (by omega)]
  exact List.take_of_length_le (by omega)

theorem policyParamBytes_parse (h : ps.length = 13) : policyParamBytes (PolicyParams.parse ps) = ps := by
  simp only [policyParamBytes, PolicyParams.parse]
  rw [leBytes_field_zero (by omega)]
  repeat rw [take_append_leBytes_field (by omega)]
  exact List.take_of_length_le (by omega)

end

/-! ### A sound frame (R149, R150, R152) -/

/-- The bytes of the frame of a command: code, parameter count, parameters and check byte (R169). -/
abbrev commandBytes (code : Byte) (ps : List Byte) (check : Byte) : List Byte :=
  code :: BitVec.ofNat 8 ps.length :: (ps ++ [check])

/-- A command's frame is taken, and its code and parameters name what it does. -/
theorem exec_commandBytes {s : State} (h : s.linkReady) {code check : Byte} {ps : List Byte}
    (hsum : byteSum (commandBytes code ps check) = 0) (hcount : paramCount code.toNat = some ps.length) :
    exec (.commandFrame s.targetAddress (commandBytes code ps check)) s =
      .next ((s.withCommand code.toNat ps).runCommand code.toNat ps) := by
  have hle := (paramCount_bounds hcount).1
  have hcode : field (commandBytes code ps check) 0 1 = code.toNat := field_byte _ _
  have hlen : field (commandBytes code ps check) 1 1 = ps.length := by
    rw [field_byte_of_pos _ _ Nat.one_pos, field_byte, BitVec.toNat_ofNat, Nat.mod_eq_of_lt (by omega)]
  have hparams : ((commandBytes code ps check).drop 2).take ps.length = ps := by simp
  have hsound : FrameSound (commandBytes code ps check) := ⟨by simp, by simp; omega, hsum, by rw [hlen]; simp⟩
  rw [exec_commandFrame h, if_pos ⟨rfl, List.cons_ne_nil _ _⟩,
    endFrame_of_command s hsound (by rw [hcode, hlen, hcount]), hcode, hlen, hparams, takeCommand_of_idle h.2]

/-- A command's own row acts as its frame does, for the row's parameters are the frame's bytes. -/
theorem live_takeCommand_of_params {s : State} (h : s.linkReady) {code : Nat} {ps qs : List Byte} {act : State → State}
    (hps : qs = ps) : live s (fun s => s.takeCommand code qs act) =
      .next (act (s.withCommand code ps)) :=
  hps ▸ live_takeCommand h code qs act

/-- Settles O15: what the frame names is what the row does, once the row's parameters are written as bytes again. -/
theorem frameRunsItsCommand : Obligations.FrameRunsItsCommand := by
  intro s ps code check h frame hsum hcount
  have count : ∀ {n}, paramCount code.toNat = some n → ps.length = n := fun hn => Option.some.inj (hcount.symm.trans hn)
  have nil : paramCount code.toNat = some 0 → [] = ps := fun hn => (List.length_eq_zero_iff.1 (count hn)).symm
  refine ⟨_, exec_commandBytes h hsum hcount, ?_, ?_, ?_, ?_, ?_, ?_, ?_, ?_, ?_, ?_, ?_, ?_, ?_, ?_, ?_, ?_, ?_, ?_,
    ?_, ?_, ?_⟩
  all_goals rintro rfl
  · exact live_takeCommand_of_params h (nil rfl)
  · exact live_takeCommand_of_params h (nil rfl)
  · exact live_takeCommand_of_params h (leBytes_geometry_params (count rfl))
  · exact live_takeCommand_of_params h (regionParamBytes_parse (count rfl))
  · exact live_takeCommand_of_params h (leBytes_one_param (count rfl))
  · exact live_takeCommand_of_params h (leBytes_one_param (count rfl))
  · exact live_takeCommand_of_params h (policyParamBytes_parse (count rfl))
  · exact live_takeCommand_of_params h (nil rfl)
  · intro hfresh
    have hps : [1] = ps := leBytes_param_of_eq (count rfl) hfresh
    exact (live_takeCommand_of_params h hps).trans (congrArg _ (if_pos hfresh).symm)
  · intro hrecover
    have hps : [2] = ps := leBytes_param_of_eq (count rfl) hrecover
    exact (live_takeCommand_of_params h hps).trans (congrArg _ ((if_neg (by omega)).trans (if_pos hrecover)).symm)
  · exact fun hfresh hrecover => (if_neg hfresh).trans (if_neg hrecover)
  · exact live_takeCommand_of_params h (nil rfl)
  · exact live_takeCommand_of_params h (nil rfl)
  · exact live_takeCommand_of_params h (leBytes_two_params (count rfl))
  · exact live_takeCommand_of_params h (leBytes_two_params (count rfl))
  · exact live_takeCommand_of_params h (leBytes_one_param (count rfl))
  · exact live_takeCommand_of_params h (nil rfl)
  · exact live_takeCommand_of_params h (leBytes_one_param (count rfl))
  · exact live_takeCommand_of_params h (nil rfl)
  · exact live_takeCommand_of_params h (nil rfl)
  · exact live_takeCommand_of_params h (leBytes_one_param (count rfl))

/-! ### While a command executes (R148, R150) -/

section
variable {s : State} {code : Nat} {ps : List Byte} (h : s.link.state = .executing code ps)
include h

theorem live_takeCommand_of_executing (c : Nat) (qs : List Byte) (act : State → State) :
    live s (fun s => s.takeCommand c qs act) = .next s := by
  simp [live, State.takeCommand, h]

theorem exec_command_of_executing {c : Instr} (hc : isCommand c = true) : exec c s = .next s := by
  cases c with
  | getIdent | getState | setLog | setRegion | clearRegion | getRegion | setPolicy | getPolicy | startFresh
  | startRecover | stop | resume | abandonGroup | releaseBroken | getGroup | popNotice | setNoticeMask | getCounters
  | clearCounters | setLock => exact live_takeCommand_of_executing h _ _ _
  | _ => exact absurd hc Bool.false_ne_true

theorem exec_commandFrame_of_executing (a : BitVec 7) (bs : List Byte) : exec (.commandFrame a bs) s = .next s := by
  have hrow : exec (.commandFrame a bs) s = .next (if s.power then s.writeTransfer a bs else s) := rfl
  rw [hrow]
  simp [State.writeTransfer, State.acksAddress, h]

end

/-! ### Acknowledgments (R147, R148) -/

/-- A byte is acknowledged while fewer than 35 came before it. -/
theorem acks_collect (bs : List Byte) : (Frame.collect bs).acks = decide (bs.length < 35) := by
  simp [collect_eq, Frame.acks, Config.frameBytes]

theorem writeAcks_of_acksAddress {s : State} {a : BitVec 7} (h : s.acksAddress a .write = true) (bs : List Byte) :
    s.writeAcks a bs = true :: (List.replicate (min 35 bs.length) true ++ List.replicate (bs.length - 35) false) := by
  unfold State.writeAcks
  rw [h]
  congr 1
  refine List.ext_getElem (by simp; omega) fun i hi _ => ?_
  have hlen : i < bs.length := by simpa using hi
  simp only [List.getElem_map, List.getElem_range, Bool.true_and, acks_collect, List.length_take, min_eq_left hlen.le,
    List.getElem_append, List.length_replicate, List.getElem_replicate]
  by_cases hstored : i < 35
  · simp [hstored, hlen]
  · simp [hstored]

theorem writeAcks_of_not_acksAddress {s : State} {a : BitVec 7} (h : s.acksAddress a .write = false) (bs : List Byte) :
    s.writeAcks a bs = List.replicate (bs.length + 1) false := by
  simp [State.writeAcks, h, List.replicate_succ]

/-! ### Read transfers (R147, R151) -/

theorem targetAddress_toNat (s : State) : s.targetAddress.toNat = 0x58 + s.link.straps.val := by
  have hstraps := s.link.straps.isLt
  simp [State.targetAddress]
  omega

/-- A response frame is its status, its length, its data and a check byte that makes the sum 0. -/
theorem frameOf_layout (st : Status) (d : List Byte) : ∃ check,
    frameOf st d = st.code :: BitVec.ofNat 8 d.length :: (d ++ [check]) ∧
      byteSum (st.code :: BitVec.ofNat 8 d.length :: (d ++ [check])) = 0 := by
  refine ⟨0 - byteSum ([st.code, BitVec.ofNat 8 d.length] ++ d), by simp [frameOf], ?_⟩
  have hsum (bs : List Byte) : byteSum (bs ++ [0 - byteSum bs]) = 0 := by simp [byteSum]
  simpa using hsum ([st.code, BitVec.ofNat 8 d.length] ++ d)

/-- The bytes of a list, then 0xFF. -/
theorem map_getD_range (bs : List Byte) (n : Nat) :
    (List.range n).map (fun i => bs.getD i 0xFF) = (bs ++ List.replicate n 0xFF).take n := by
  refine List.ext_getElem (by simp) fun i hi _ => ?_
  have hn : i < n := by simpa using hi
  by_cases hlen : i < bs.length
  · simp [hlen, List.getElem_append_left]
  · simp [hlen, List.getElem_append_right (not_lt.1 hlen)]

theorem readTransfer_of_target (s : State) (n : Nat) :
    s.readTransfer s.targetAddress n = (s.responseFrame ++ List.replicate n 0xFF).take n := by
  have hacks : s.acksAddress s.targetAddress .read = true := by simp [State.acksAddress]
  rw [State.readTransfer, if_pos hacks]
  exact map_getD_range _ n

theorem responseFrame_of_executing {s : State} (h : s.link.state ≠ .idle) : s.responseFrame = [0x01, 0x00, 0xFF] := by
  unfold State.responseFrame
  cases hst : s.link.state with
  | idle => exact absurd hst h
  | executing code ps => rfl

theorem responseFrame_of_idle {s : State} (h : s.link.state = .idle) :
    (s.link.buffer = .none → s.responseFrame = [0x02, 0x00, 0xFE]) ∧
      ∀ st d, s.link.buffer = .answer st d → s.responseFrame = frameOf st d := by
  unfold State.responseFrame
  rw [h]
  exact ⟨fun hb => by rw [hb]; rfl, fun st d hb => by rw [hb]⟩

/-! ### The statement -/

/-- Settles O16: the tests' outcomes, the acknowledgments and the bytes sent, each by its lemma above. -/
theorem frameTests : Obligations.FrameTests := by
  refine ⟨fun s code ps h => ⟨fun c => exec_command_of_executing h, exec_commandFrame_of_executing h⟩,
    fun s a bs h => ?_, fun s a bs => ⟨fun ha hidle => ?_, fun hother => ?_, collect_eq bs⟩, fun s a n => ?_⟩
  · intro judged run
    have hrun : run = .next (if a = s.targetAddress ∧ bs ≠ [] then s.endFrame (Frame.collect bs) else s) :=
      exec_commandFrame h a bs
    refine ⟨fun ha => ?_, fun hbs => ?_, fun ha hbs => ?_⟩
    · rw [hrun, if_neg fun hc => ha hc.1]
    · rw [hrun, if_neg fun hc => hc.2 hbs]
    rw [hrun, if_pos ⟨ha, hbs⟩]
    refine ⟨fun hunsound => congrArg _ (endFrame_of_unsound s hunsound), fun hmin hmax hsum hlen => ?_⟩
    have hsound : FrameSound bs := ⟨hmin, hmax, hsum, hlen⟩
    exact ⟨fun hcode => congrArg _ (endFrame_of_unknown s hsound (paramCount_eq_none hcode)),
      fun n hcode hn => congrArg _ (endFrame_of_miscount s hsound hcode hn)⟩
  · exact writeAcks_of_acksAddress (by simp [State.acksAddress, ha, hidle]) bs
  · refine writeAcks_of_not_acksAddress ?_ bs
    rcases hother with ha | hbusy
    · simp [State.acksAddress, ha]
    · simp [State.acksAddress, hbusy]
  · intro sends
    refine ⟨targetAddress_toNat s, fun ha => ?_, ?_⟩
    · have hacks : s.acksAddress a .read = false := by simp [State.acksAddress, ha]
      exact ⟨hacks, by simp [State.readTransfer, hacks]⟩
    · rintro rfl
      have hsends : ∀ frame, s.responseFrame = frame → sends frame := fun frame hf => hf ▸ readTransfer_of_target s n
      refine ⟨by simp [State.acksAddress], fun hbusy => hsends _ (responseFrame_of_executing hbusy),
        fun hidle hb => hsends _ ((responseFrame_of_idle hidle).1 hb), fun st d hidle hb => ?_⟩
      obtain ⟨check, hframe, hsum⟩ := frameOf_layout st d
      exact ⟨check, hsends _ (((responseFrame_of_idle hidle).2 st d hb).trans hframe), hsum⟩

end Sys2Proof.Machine
end

section
/-! One step of the block: the front of the command queue. The empty queue is `step_of_empty`'s. -/

namespace Sys2Proof.Machine

/-- Settles O1: on a queue with a front command, `step` takes the branch that runs it. -/
theorem stepRunsFrontCommand : Obligations.StepRunsFrontCommand := by
  intro s c rest hq
  unfold step
  rw [hq]

end Sys2Proof.Machine
end
